-- ==== Sys2Proof/Word.lean ====
section
/-!
DEFINITION. The widths of the block's values (spec/00_scope.md R8, spec/10_state.md R20): the byte of the wire and
of DATA, the 16-bit operation word and CRC register, the 32-bit read data and result registers, the 11-bit RXLEN.
-/

namespace Sys2Proof

/-- A wire byte, and the DATA field of an operation word (R73). -/
abbrev Byte := BitVec 8

/-- An operation word (R71) and the CRC register (R22). -/
abbrev Word := BitVec 16

/-- Read data of the read port (R32) and the weight and tare registers (R27, R30). -/
abbrev DWord := BitVec 32

/-- The receive counter RXLEN at RX_MAX = 1024 (R25). -/
abbrev Count := BitVec 11

end Sys2Proof
end

