-- ==== Sys2Proof/Syntax.lean ====
section
/-!
DEFINITION. The block's seven operations (spec/30_encoding.md R75), one constructor per row of
spec/opcode_table.json. The only operand is the DATA byte (R73, R74), and every byte value is legal, so each term
of `Instr` is well formed by its type.
-/

namespace Sys2Proof

/-- One legal operation, as R78's decoder names it. -/
inductive Instr where
  /-- NOP (R180). -/
  | nop
  /-- CRC_INIT (R124). -/
  | crcInit
  /-- CRC_BYTE b (R125). -/
  | crcByte (b : Byte)
  /-- BUILD code (R101). -/
  | build (code : Byte)
  /-- RX_CLEAR (R151). -/
  | rxClear
  /-- RX_BYTE b (R152). -/
  | rxByte (b : Byte)
  /-- PARSE (R153). -/
  | parse
  deriving DecidableEq, Repr

end Sys2Proof
end

