-- ==== Sys2Proof/Assembly.lean ====
section
/-!
DEFINITION. The abstract syntax of one assembler line (spec/30_encoding.md R80) and of the pseudo-operations (R81).
The block sees only the words a line expands to (Machine/Assembler.lean). An operand is a natural number here: a
literal may be too large, which is an assembly error (WellFormed.lean).
-/

namespace Sys2Proof

/-- One assembler line: an operation with its literal operand, the directive `.word`, or a pseudo-operation. -/
inductive Asm where
  | nop
  | crcInit
  | crcByte (b : Nat)
  | build (code : Nat)
  | rxClear
  | rxByte (b : Nat)
  | parse
  /-- `.word w`: the word w unchanged, legal or not. -/
  | word (w : Nat)
  /-- `GET_WEIGHT`: BUILD 0x23. -/
  | getWeight
  /-- `CRC b0, ..., bn-1`. -/
  | crc (bytes : List Nat)
  /-- `RECV b0, ..., bn-1`. -/
  | recv (bytes : List Nat)
  /-- `DECODE b0, ..., bn-1`. -/
  | decode (bytes : List Nat)
  deriving DecidableEq, Repr

end Sys2Proof
end

