-- ==== Sys2Proof/WellFormed.lean ====
section
/-!
DEFINITION. Which operation words are legal, by the three conditions of spec/30_encoding.md R76 (the decoder of
Decode.lean follows R78 instead; that the two agree is an obligation), and which assembler lines are no assembly
error (R80). A term of `Instr` needs no check: its operand is a byte by its type (R73).
-/

namespace Sys2Proof

/-- R76 (a) does not hold: OPC is 0x0 to 0x6. -/
def Word.opcAssigned (w : Word) : Bool := w.toNat / 4096 < 7

/-- R76 (b) does not hold: RSV is 0b0000. -/
def Word.rsvZero (w : Word) : Bool := w.toNat / 256 % 16 = 0

/-- R76 (c) does not hold: if OPC is 0x0, 0x1, 0x4 or 0x6 then DATA is 0x00. -/
def Word.dataAllowed (w : Word) : Bool :=
  !([0, 1, 4, 6].contains (w.toNat / 4096)) || w.toNat % 256 = 0

/-- A word is legal when none of R76's three conditions holds. -/
def Word.wellFormed (w : Word) : Bool := w.opcAssigned && w.rsvZero && w.dataAllowed

/-- An operand literal is a byte: 'An operand outside 0 to 255 is an assembly error' (R80). -/
def byteLiteral (n : Nat) : Bool := n < 256

/-- An assembler line is no assembly error: its operands are bytes, and `.word` has a 16-bit literal (R80). -/
def Asm.wellFormed : Asm → Bool
  | .nop => true
  | .crcInit => true
  | .crcByte b => byteLiteral b
  | .build code => byteLiteral code
  | .rxClear => true
  | .rxByte b => byteLiteral b
  | .parse => true
  | .word w => w < 65536
  | .getWeight => true
  | .crc bytes => bytes.all byteLiteral
  | .recv bytes => bytes.all byteLiteral
  | .decode bytes => bytes.all byteLiteral

end Sys2Proof
end

