-- ==== Sys2Proof/Decode.lean ====
section
/-!
DEFINITION. The operation word's fields (spec/30_encoding.md R71), the total decoder (R78), the encoder (R72), the
opcode map as match and mask (R75), and the host's view of the decoder. One word is one operation (R79): there is
no length to decode and no byte order, since the port carries the 16 bits at once (R70).
-/

namespace Sys2Proof

/-- OPC, bits [15:12] (R71). -/
def opcOf (w : Word) : BitVec 4 := w.extractLsb' 12 4

/-- RSV, bits [11:8] (R71). -/
def rsvOf (w : Word) : BitVec 4 := w.extractLsb' 8 4

/-- DATA, bits [7:0] (R71, R73). -/
def dataOf (w : Word) : Byte := w.extractLsb' 0 8

/-- Why a word is Illegal: the conditions of R76, named in the order R78 tests them. -/
inductive IllegalWord where
  /-- RSV is not 0b0000. -/
  | reservedBits
  /-- OPC is 0x7 to 0xF. -/
  | unassignedOpc
  /-- DATA is not 0x00 on an operation without operand. -/
  | dataNotZero
  deriving DecidableEq, Repr

/-- What R78's decoder answers: one of the seven operations, or Illegal. -/
inductive Decoded where
  | instr (i : Instr)
  | illegal (why : IllegalWord)
  deriving DecidableEq, Repr

/-- The word is one of the seven operations, not Illegal. -/
def isLegal (d : Decoded) : Bool :=
  match d with
  | .instr _ => true
  | .illegal _ => false

/-- An operation without operand: its word has DATA = 0x00 (R76 (c), R78). -/
def withoutOperand (data : Byte) (i : Instr) : Decoded :=
  if data = 0x00 then .instr i else .illegal .dataNotZero

/-- The decoder of R78, total on all 65,536 words. -/
def decode (w : Word) : Decoded :=
  if rsvOf w ≠ 0 then .illegal .reservedBits
  else
    match (opcOf w).toNat with
    | 0 => withoutOperand (dataOf w) .nop
    | 1 => withoutOperand (dataOf w) .crcInit
    | 2 => .instr (.crcByte (dataOf w))
    | 3 => .instr (.build (dataOf w))
    | 4 => withoutOperand (dataOf w) .rxClear
    | 5 => .instr (.rxByte (dataOf w))
    | 6 => withoutOperand (dataOf w) .parse
    | _ => .illegal .unassignedOpc

/-- The word of a legal operation: OPC, four zero bits, DATA (R72). -/
def wordOf (opc : BitVec 4) (data : Byte) : Word := opc ++ (0 : BitVec 4) ++ data

/-- The encoder, from the OPC column of R75 and the format of R72. -/
def encode : Instr → Word
  | .nop => wordOf 0x0 0x00
  | .crcInit => wordOf 0x1 0x00
  | .crcByte b => wordOf 0x2 b
  | .build code => wordOf 0x3 code
  | .rxClear => wordOf 0x4 0x00
  | .rxByte b => wordOf 0x5 b
  | .parse => wordOf 0x6 0x00

/-- One row of the opcode map: its match, its mask, and the operation it selects with DATA as operand (R75). -/
structure OpRow where
  mtch : Word
  mask : Word
  op   : Byte → Instr

/-- The opcode map of R75, row by row. -/
def opcodeMap : List OpRow :=
  [⟨0x0000, 0xFFFF, fun _ => .nop⟩,
   ⟨0x1000, 0xFFFF, fun _ => .crcInit⟩,
   ⟨0x2000, 0xFF00, .crcByte⟩,
   ⟨0x3000, 0xFF00, .build⟩,
   ⟨0x4000, 0xFFFF, fun _ => .rxClear⟩,
   ⟨0x5000, 0xFF00, .rxByte⟩,
   ⟨0x6000, 0xFFFF, fun _ => .parse⟩]

/-- 'A word selects an operation exactly when (word & mask) == match' (R75). -/
def rowSelects (r : OpRow) (w : Word) : Bool := w &&& r.mask == r.mtch

/-- The operations the opcode map selects for a word: one for a legal word, none for an illegal one. -/
def selectedOps (w : Word) : List Instr :=
  (opcodeMap.filter (fun r => rowSelects r w)).map (fun r => r.op (dataOf w))

/-- The 16-bit word whose bits are `w`, of which the opcode table numbers the low `nbits`; bits above are 0. -/
def tableWord (nbits w : Nat) : Word := BitVec.ofNat 16 (w % 2 ^ nbits)

/-- The instruction the decoder reads from a word numbered as spec/opcode_table.json numbers it; none where the
word is Illegal. -/
def decodeTableWord (nbits w : Nat) : Option Instr :=
  match decode (tableWord nbits w) with
  | .instr i => some i
  | .illegal _ => none

end Sys2Proof
end

