-- ==== Sys2Proof/Config.lean ====
section
/-!
DEFINITION. What an implementation of the block fixes, and the one value the spec leaves free. The literals the
spec states (the CRC parameters, the preamble, the length thresholds) are in Machine/Params.lean.
-/

namespace Sys2Proof

/-- RX_MAX, the count at which RXLEN saturates: the open parameter of spec/92_eei_decisions.md D11, any value from
17 on, at its default 1024 (R8, R9, R25). DESIGN CHOICE, log entry 1: unsafe for claims about RXLEN's read-back on
a block with another RX_MAX, safe for every claim about a parse result (R9). -/
def Config.rxMax : Count := 1024

/-- The FREE VALUE of log entry 3: the thirteen bytes of RXB after a reset event, of which the spec says 'RXB keeps
or takes any value' (R230, R36). It is applied to the model's count of free values drawn so far and to the bytes
RXB held, so that keeping them is among the possibilities. It has no body: nothing can be proved of its value. -/
opaque Config.rxbAfterReset : Nat → Vector Byte 13 → Vector Byte 13

end Sys2Proof
end

