-- ==== Sys2Proof/Machine/Params.lean ====
section
/-!
DEFINITION. The literals the source states (spec/00_scope.md R8), taken at the document's values (D29, log entry
12). They stand here, once, so that a literal the original code proves wrong (I9) is mended in one place.
-/

namespace Sys2Proof.Machine

/-- CRC_POLY (R8, R120). -/
def crcPoly : Word := 0x1021

/-- CRC_INIT, the initial register (R8, R120). -/
def crcInit : Word := 0xFFFF

/-- CMD_GET_WEIGHT, the one command code the source uses (R8, R104). -/
def cmdGetWeight : Byte := 0x23

/-- N_MIN, the shortest valid response (R8, R141). -/
def nMin : Nat := 13

/-- N_EXT, the shortest response whose tare is decoded (R8, R145). -/
def nExt : Nat := 17

/-- The byte value that decodes a flag to true (R144, C4). -/
def flagTrue : Byte := 0x01

/-- RES_STATUS after a PARSE that decoded a reading: OK (R26). -/
def statusOk : BitVec 2 := 0b01

/-- RES_STATUS after a PARSE that raised ShortResponse: SHORT (R26). -/
def statusShort : BitVec 2 := 0b10

end Sys2Proof.Machine
end

