-- ==== Sys2Proof/Machine/State.lean ====
section
/-!
DEFINITION. The machine's state: the thirteen elements of spec/10_state.md R20, the inputs the host has yet to
present (spec/30_encoding.md R70, spec/70_reset_and_hazards.md R230), and the model's count of free values. The
state after reset is R36's.
-/

namespace Sys2Proof.Machine

/-- One step's input (R14, R230, R231): an operation word, a reset event, or both presented together. -/
inductive Input where
  /-- The host presents an operation word (R70). -/
  | word (w : Word)
  /-- A reset event (R230). -/
  | reset
  /-- A reset event and an operation word in the same step (R231). -/
  | resetWithWord (w : Word)
  deriving DecidableEq, Repr

/-- The result registers RES_* (R20). PARSE writes all of them in every step (R153). -/
structure Results where
  /-- RES_STATUS (R26). -/
  status    : BitVec 2
  /-- RES_WEIGHT, a two's-complement pattern (R27). -/
  weight    : DWord
  /-- RES_DIVISION (R28). -/
  division  : Byte
  /-- RES_STABLE (R29). -/
  stable    : Bool
  /-- RES_NET (R29). -/
  net       : Bool
  /-- RES_ZERO (R29). -/
  zero      : Bool
  /-- RES_TARE, a two's-complement pattern, 0 when absent (R30). -/
  tare      : DWord
  /-- RES_TARE_VALID (R30). -/
  tareValid : Bool
  deriving DecidableEq, Repr

/-- The machine: the block's state of R20, then what the model adds. -/
structure State where
  /-- CRC, the running CRC register (R22). -/
  crc    : Word
  /-- TXF[0..7], the command frame last built (R23). -/
  txf    : Vector Byte 8
  /-- RXB[0..12], the first 13 bytes of the response being received (R24). -/
  rxb    : Vector Byte 13
  /-- RXLEN, response bytes received, saturating at RX_MAX (R25). -/
  rxlen  : Count
  /-- RES_*, the outcome and fields of the last PARSE (R26 to R30). -/
  res    : Results
  /-- ILL, the sticky illegal-operation fault (R31). -/
  ill    : Bool
  /-- Not the block's: the inputs the host has yet to present, oldest first (log entry 5). -/
  port   : List Input
  /-- Not the block's: how many free values have been drawn (log entry 4). -/
  freeIndex : Nat
  deriving DecidableEq, Repr

/-- The fault conditions of the block. No step stops with one: an illegal word sets ILL and the block goes on
(R204), which is the effect a step gives. -/
inductive Fault where
  /-- IllegalOperation (R204): reported of a state with ILL = 1 by `State.faultOf` in Safety.lean, because 'A model
  treats ILL = 1 as a fault' (R205). Raised by no step. Safe: it takes no behaviour away and adds none. -/
  | illegalOperation
  deriving DecidableEq, Repr

/-- Reasons a step gives no meaning. -/
inductive Refusal where
  /-- An instruction the model gives no meaning; raised by no arm of `exec`, all seven being modelled. Safe. -/
  | notModelled (mnemonic : String)
  deriving DecidableEq, Repr

/-- The result registers after reset: IDLE, every field 0 (R36). -/
def Results.reset : Results :=
  { status := 0b00, weight := 0, division := 0, stable := false, net := false, zero := false, tare := 0,
    tareValid := false }

/-- The machine right after reset (R36). RXB's value is DESIGN CHOICE, log entry 2: the spec leaves it unspecified
and says a model may give it any value (R38); unsafe, though no read register shows it. The port is empty and no
free value has been drawn: DESIGN CHOICE, log entries 5 and 4. -/
def State.reset : State :=
  { crc := 0xFFFF, txf := Vector.replicate 8 0, rxb := Vector.replicate 13 0, rxlen := 0, res := Results.reset,
    ill := false, port := [], freeIndex := 0 }

end Sys2Proof.Machine
end

