-- ==== Sys2Proof/Machine/Flags.lean ====
section
/-!
DEFINITION. Every flag the block computes: the decode of a flag byte (spec/42_response_parser.md R144) and the
STATUS word that shows the flags (spec/10_state.md R34).
-/

namespace Sys2Proof.Machine

/-- 'byte equals 1': 0x01 is true, every other byte false (R144, C4). -/
def flagOf (b : Byte) : Bool := b == flagTrue

/-- The STATUS read register: ILL, RES_TARE_VALID, RES_ZERO, RES_NET, RES_STABLE, RES_STATUS from bit 6 down, zero
above (R34). -/
def statusWord (s : State) : DWord :=
  (0 : BitVec 25) ++ BitVec.ofBool s.ill ++ BitVec.ofBool s.res.tareValid ++ BitVec.ofBool s.res.zero
    ++ BitVec.ofBool s.res.net ++ BitVec.ofBool s.res.stable ++ s.res.status

end Sys2Proof.Machine
end

