-- ==== Sys2Proof/Machine/Operands.lean ====
section
/-!
DEFINITION. How the one operand is used and how bytes make wider values: the placement of DATA in a 16-bit value
(spec/41_crc16.md R122, spec/30_encoding.md R73), the byte order (spec/20_memory.md R53 to R57) and the notation of
spec/00_scope.md R11 and R12.
-/

namespace Sys2Proof.Machine

/-- zext_16(b) << 8: the byte in bits [15:8] of a 16-bit value (R122, R73). -/
def inHighByte (b : Byte) : Word := b.zeroExtend 16 <<< 8

/-- c[7:0] (R54). -/
def lowByte (c : Word) : Byte := c.extractLsb' 0 8

/-- c[15:8] (R54). -/
def highByte (c : Word) : Byte := c.extractLsb' 8 8

/-- LE16: b0 is the low byte (R12). -/
def le16 (b0 b1 : Byte) : Word := b1 ++ b0

/-- LE32: b0 is the low byte (R12, R55). -/
def le32 (b0 b1 b2 b3 : Byte) : DWord := b3 ++ b2 ++ b1 ++ b0

/-- Byte k of a 32-bit pattern, k = 0 the low byte: the wire order of a little-endian field (R53). -/
def byteOf (v : DWord) (k : Nat) : Byte := v.extractLsb' (8 * k) 8

/-- s32(v) = v - 2^32 * v[31] (R11): the two's-complement value of a pattern. -/
def s32 (v : DWord) : Int := (v.toNat : Int) - 2 ^ 32 * (if v.getLsbD 31 then 1 else 0)

/-- u32(x): the 32-bit two's-complement pattern of an integer (R11). -/
def u32 (x : Int) : DWord := BitVec.ofInt 32 x

end Sys2Proof.Machine
end

