-- ==== Sys2Proof/Machine/Ops.lean ====
section
/-!
DEFINITION. The named operations over the state: the writes of each element, the block's two error outcomes
(spec/60_exceptions.md R200, R204; they are the block's whole exception handling, since it has no trap entry and no
return, R207), and the reset event (spec/70_reset_and_hazards.md R230).
-/

namespace Sys2Proof.Machine

/-- CRC <- c. -/
def writeCrc (c : Word) (s : State) : State := { s with crc := c }

/-- TXF[k] <- f[k] for every k at once (R101, R23). -/
def writeFrame (f : Vector Byte 8) (s : State) : State := { s with txf := f }

/-- RXLEN <- 0; RXB stays as it is (R151). -/
def clearCount (s : State) : State := { s with rxlen := 0 }

/-- Where RX_BYTE stores: offset RXLEN while it is below 13, nowhere otherwise (R152, R24). -/
def storeOffset (rxlen : Count) : Option (Fin 13) :=
  if h : rxlen.toNat < 13 then some ⟨rxlen.toNat, h⟩ else none

/-- RXB after RX_BYTE b: b at the store offset, if there is one (R152). -/
def storeByte (rxlen : Count) (b : Byte) (rxb : Vector Byte 13) : Vector Byte 13 :=
  match storeOffset rxlen with
  | some k => rxb.set k b
  | none => rxb

/-- RXLEN after RX_BYTE: one more while below RX_MAX, else unchanged (R152, R25). -/
def countByte (rxMax rxlen : Count) : Count :=
  if rxlen.toNat < rxMax.toNat then rxlen + 1 else rxlen

/-- The receive operation at any RX_MAX (R152, R9); both tests read RXLEN before the step. -/
def receiveByte (rxMax : Count) (b : Byte) (s : State) : State :=
  { s with rxb := storeByte s.rxlen b s.rxb, rxlen := countByte rxMax s.rxlen }

/-- RES_* <- r, all of them (R153). -/
def writeResults (r : Results) (s : State) : State := { s with res := r }

/-- What ShortResponse leaves in RES_*: the SHORT code and every field zero (R200, R153). -/
def shortResults : Results :=
  { status := statusShort, weight := 0, division := 0, stable := false, net := false, zero := false, tare := 0,
    tareValid := false }

/-- Raise ShortResponse (R200): reported in RES_STATUS, nothing trapped, ILL unchanged. -/
def raiseShortResponse (s : State) : State := writeResults shortResults s

/-- Raise IllegalOperation (R204): ILL <- 1; no other state changes; the word is not recorded. -/
def raiseIllegalOperation (s : State) : State := { s with ill := true }

/-- The reset event (R230): every element takes its reset value of R36 in one step. RXB 'keeps or takes any value':
the free value of log entry 3. The host's inputs are no state of the block and stay (log entry 8). -/
def resetBlock (s : State) : State :=
  { State.reset with
    rxb := Config.rxbAfterReset s.freeIndex s.rxb, port := s.port, freeIndex := s.freeIndex + 1 }

end Sys2Proof.Machine
end

