-- ==== Sys2Proof/Machine/Crc.lean ====
section
/-!
DEFINITION. The CRC-16/CCITT function (spec/41_crc16.md R120 to R123, R126) and the meanings of CRC_INIT (R124) and
CRC_BYTE (R125).
-/

namespace Sys2Proof.Machine

/-- crc_round: shift left one bit, and XOR the polynomial if bit 15 was set (R122). -/
def crcRound (c : Word) : Word :=
  if c.getLsbD 15 then (c <<< 1) ^^^ crcPoly else c <<< 1

/-- crc_round n times. -/
def crcRounds : Nat → Word → Word
  | 0, c => c
  | n + 1, c => crcRounds n (crcRound c)

/-- crc_update: XOR the byte into bits [15:8], then eight rounds (R122). -/
def crcUpdate (c : Word) (b : Byte) : Word := crcRounds 8 (c ^^^ inHighByte b)

/-- crc_update over a byte sequence, offset 0 first. -/
def crcFold (c : Word) (data : List Byte) : Word := data.foldl crcUpdate c

/-- computeCRC16CCITT: from 0xFFFF, no final XOR, no reflection (R121). -/
def crc16 (data : List Byte) : Word := crcFold crcInit data

/-- A round in a register `extra` bits wider than 16, which drops only the bits above its own width; the tested bit
is still bit 15 (R126). -/
def crcRoundWide (extra c : Nat) : Nat :=
  if c.testBit 15 then (c * 2 % 2 ^ (16 + extra)) ^^^ crcPoly.toNat else c * 2 % 2 ^ (16 + extra)

/-- crcRoundWide n times. -/
def crcRoundsWide (extra : Nat) : Nat → Nat → Nat
  | 0, c => c
  | n + 1, c => crcRoundsWide extra n (crcRoundWide extra c)

/-- crc_update in the wider register (R126). -/
def crcUpdateWide (extra c : Nat) (b : Byte) : Nat := crcRoundsWide extra 8 (c ^^^ (b.toNat * 256))

/-- crc16 in the wider register, truncated only at the end (R126). -/
def crc16Wide (extra : Nat) (data : List Byte) : Nat :=
  data.foldl (crcUpdateWide extra) crcInit.toNat % 2 ^ 16

/-- CRC_INIT: CRC <- 0xFFFF (R124). -/
def execCrcInit (s : State) : Host.Outcome State Fault Refusal := .next (writeCrc crcInit s)

/-- CRC_BYTE b: CRC <- crc_update(CRC, b), all eight rounds in the step (R125). -/
def execCrcByte (b : Byte) (s : State) : Host.Outcome State Fault Refusal :=
  .next (writeCrc (crcUpdate s.crc b) s)

end Sys2Proof.Machine
end

