-- ==== Sys2Proof/Machine/Frame.lean ====
section
/-!
DEFINITION. The command-frame function (spec/40_command_frame.md R100) and the meaning of BUILD (R101).
-/

namespace Sys2Proof.Machine

/-- buildCommand: the five preamble bytes, the code, and the CRC of the code alone, low byte first (R100, R102). -/
def buildCommand (code : Byte) : Vector Byte 8 :=
  #v[0xF8, 0x55, 0xCE, 0x01, 0x00, code, lowByte (crc16 [code]), highByte (crc16 [code])]

/-- BUILD code: all eight bytes of TXF; CRC is neither read nor written (R101). -/
def execBuild (code : Byte) (s : State) : Host.Outcome State Fault Refusal :=
  .next (writeFrame (buildCommand code) s)

end Sys2Proof.Machine
end

