-- ==== Sys2Proof/Machine/Misc.lean ====
section
/-!
DEFINITION. The meaning of NOP (spec/43_misc.md R180).
-/

namespace Sys2Proof.Machine

/-- NOP: no state changes (R180). -/
def execNop (s : State) : Host.Outcome State Fault Refusal := .next s

end Sys2Proof.Machine
end

