-- ==== Sys2Proof/Machine/Response.lean ====
section
/-!
DEFINITION. The response-parser function (spec/42_response_parser.md R140, R150) and the meanings of RX_CLEAR
(R151), RX_BYTE (R152) and PARSE (R153). The function works on a whole byte sequence, the operations byte by byte;
that they agree is R154, an obligation.
-/

namespace Sys2Proof.Machine

/-- A Reading, the parser's successful result (R150). -/
structure Reading where
  weight      : Int
  division    : Byte
  stable      : Bool
  net         : Bool
  zero        : Bool
  tare        : Int
  tarePresent : Bool
  deriving DecidableEq, Repr

/-- The protocol errors of the block: ShortResponse and no other (R149, R201). -/
inductive ProtocolError where
  | shortResponse
  deriving DecidableEq, Repr

/-- What parseResponse answers (R140). -/
inductive Parsed where
  | reading (r : Reading)
  | failed (e : ProtocolError)
  deriving DecidableEq, Repr

/-- raw[i] (R12); parseResponse asks only for offsets below len(raw). -/
def byteAt (raw : List Byte) (i : Nat) : Byte := raw.getD i 0

/-- The signed little-endian 32-bit field at offsets i to i+3 (R55). -/
def signedField (raw : List Byte) (i : Nat) : Int :=
  s32 (le32 (byteAt raw i) (byteAt raw (i + 1)) (byteAt raw (i + 2)) (byteAt raw (i + 3)))

/-- parseResponse (R140): ShortResponse below 13 bytes; tare only from 17 bytes on. -/
def parseResponse (raw : List Byte) : Parsed :=
  if raw.length < nMin then .failed .shortResponse
  else
    .reading
      { weight := signedField raw 1, division := byteAt raw 5, stable := flagOf (byteAt raw 6),
        net := flagOf (byteAt raw 7), zero := flagOf (byteAt raw 8),
        tare := if nExt ≤ raw.length then signedField raw 9 else 0,
        tarePresent := decide (nExt ≤ raw.length) }

/-- The result registers that stand for what parseResponse answers (R154). -/
def resultsOf : Parsed → Results
  | .failed .shortResponse => shortResults
  | .reading r =>
    { status := statusOk, weight := u32 r.weight, division := r.division, stable := r.stable, net := r.net,
      zero := r.zero, tare := u32 r.tare, tareValid := r.tarePresent }

/-- PARSE's decode of the stored bytes, with RXLEN at least 13 (R153). -/
def okResults (rxlen : Count) (rxb : Vector Byte 13) : Results :=
  { status := statusOk, weight := le32 rxb[1] rxb[2] rxb[3] rxb[4], division := rxb[5], stable := flagOf rxb[6],
    net := flagOf rxb[7], zero := flagOf rxb[8],
    tare := if nExt ≤ rxlen.toNat then le32 rxb[9] rxb[10] rxb[11] rxb[12] else 0,
    tareValid := decide (nExt ≤ rxlen.toNat) }

/-- RX_CLEAR: RXLEN <- 0 (R151). -/
def execRxClear (s : State) : Host.Outcome State Fault Refusal := .next (clearCount s)

/-- RX_BYTE b: store at offset RXLEN if below 13, count if below RX_MAX (R152). -/
def execRxByte (b : Byte) (s : State) : Host.Outcome State Fault Refusal :=
  .next (receiveByte Config.rxMax b s)

/-- PARSE: ShortResponse when RXLEN < 13, else the reading; RXB and RXLEN stay (R153). -/
def execParse (s : State) : Host.Outcome State Fault Refusal :=
  if s.rxlen.toNat < nMin then .next (raiseShortResponse s)
  else .next (writeResults (okResults s.rxlen s.rxb) s)

end Sys2Proof.Machine
end

