-- ==== Sys2Proof/Machine/Dispatch.lean ====
section
/-!
DEFINITION. One arm per operation: each calls its meaning.
-/

namespace Sys2Proof.Machine

def exec (i : Instr) (s : State) : Host.Outcome State Fault Refusal :=
  match i with
  | .nop => Sys2Proof.Machine.execNop s
  | .crcInit => Sys2Proof.Machine.execCrcInit s
  | .crcByte b => Sys2Proof.Machine.execCrcByte b s
  | .build code => Sys2Proof.Machine.execBuild code s
  | .rxClear => Sys2Proof.Machine.execRxClear s
  | .rxByte b => Sys2Proof.Machine.execRxByte b s
  | .parse => Sys2Proof.Machine.execParse s

end Sys2Proof.Machine
end

