-- ==== Sys2Proof/Machine/ReadPort.lean ====
section
/-!
DEFINITION. The read port (spec/10_state.md R32 to R35): read data is a function of the select and the state alone.
A read is no step and changes nothing.
-/

namespace Sys2Proof.Machine

/-- rd_data for a 4-bit rd_sel: the register map of R33; selects 0x8 to 0xF read 0. -/
def readPort (sel : BitVec 4) (s : State) : DWord :=
  match sel.toNat with
  | 0 => s.crc.zeroExtend 32
  | 1 => le32 s.txf[0] s.txf[1] s.txf[2] s.txf[3]
  | 2 => le32 s.txf[4] s.txf[5] s.txf[6] s.txf[7]
  | 3 => s.rxlen.zeroExtend 32
  | 4 => statusWord s
  | 5 => s.res.weight
  | 6 => s.res.division.zeroExtend 32
  | 7 => s.res.tare
  | _ => 0

end Sys2Proof.Machine
end

