-- ==== Sys2Proof/Machine/Port.lean ====
section
/-!
DEFINITION. What the block does with one input (spec/00_scope.md R14): an operation word (spec/30_encoding.md R70,
R76), a reset event (spec/70_reset_and_hazards.md R230), or both at once (R231).
-/

namespace Sys2Proof.Machine

/-- Accept an operation word: perform the operation it decodes to; an illegal word performs none and sets ILL and
the block goes on (R76, R204; log entry 7). -/
def acceptWord (w : Word) (s : State) : Host.Outcome State Fault Refusal :=
  match decode w with
  | .instr i => exec i s
  | .illegal _ => .next (raiseIllegalOperation s)

/-- Accept one input. A reset wins over a word presented with it, which is discarded and does not set ILL even when
it is illegal (R231). -/
def acceptInput (e : Input) (s : State) : Host.Outcome State Fault Refusal :=
  match e with
  | .word w => acceptWord w s
  | .reset => .next (resetBlock s)
  | .resetWithWord _ => .next (resetBlock s)

/-- A read made in the same step as an input: the data is that of the state before the step (R241, R60). -/
def acceptWhileReading (sel : BitVec 4) (e : Input) (s : State) : DWord × Host.Outcome State Fault Refusal :=
  (readPort sel s, acceptInput e s)

/-- The step: take the oldest input off the port and accept it. With nothing presented the block holds its state
(R215; log entry 6). -/
def portStep (s : State) : Host.Outcome State Fault Refusal :=
  match s.port with
  | [] => .next s
  | e :: rest => acceptInput e { s with port := rest }

/-- The same machine with these inputs presented before those already waiting. -/
def presenting (es : List Input) (s : State) : State := { s with port := es ++ s.port }

end Sys2Proof.Machine
end

