-- ==== Sys2Proof/Machine/Step.lean ====
section
/-!
DEFINITION. One step of the machine (spec/00_scope.md R14), and the host's way to place an instruction where the
next step takes it.
-/

namespace Sys2Proof.Machine

/-- One step: the acceptance of the next input of the port. -/
def step (s : State) : Host.Outcome State Fault Refusal := portStep s

/-- The word stands first on the operation port, so that the very next step accepts it; there is no program memory
(R21, R66; log entries 5 and 10). -/
def State.withFetchWord (s : State) (nbits w : Nat) : State := presenting [.word (tableWord nbits w)] s

end Sys2Proof.Machine
end

