-- ==== Sys2Proof/Machine/Assembler.lean ====
section
/-!
DEFINITION. The assembler of spec/30_encoding.md R80 and the pseudo-operations of R81: what words a line stands for,
and how a line is written. It is a tool above the port: the block sees only the words (log entry 14 for the points
of the written form the spec leaves open).
-/

namespace Sys2Proof.Machine

/-- A byte literal as the byte it stands for. -/
def litByte (n : Nat) : Byte := BitVec.ofNat 8 n

/-- The core operations a line stands for; `.word` has no operation, only a word (R80, R81). -/
def coreOps : Asm → List Instr
  | .nop => [.nop]
  | .crcInit => [.crcInit]
  | .crcByte b => [.crcByte (litByte b)]
  | .build code => [.build (litByte code)]
  | .rxClear => [.rxClear]
  | .rxByte b => [.rxByte (litByte b)]
  | .parse => [.parse]
  | .word _ => []
  | .getWeight => [.build cmdGetWeight]
  | .crc bytes => .crcInit :: bytes.map (fun b => .crcByte (litByte b))
  | .recv bytes => .rxClear :: bytes.map (fun b => .rxByte (litByte b))
  | .decode bytes => .rxClear :: bytes.map (fun b => .rxByte (litByte b)) ++ [.parse]

/-- The words of a line (R80, R81): `.word` gives its word unchanged, legal or not. -/
def expand (line : Asm) : List Word :=
  match line with
  | .word w => [BitVec.ofNat 16 w]
  | other => (coreOps other).map encode

/-- Assemble a line; none is an assembly error (R80). -/
def assemble (line : Asm) : Option (List Word) := if line.wellFormed then some (expand line) else none

/-- The `DECODE` pseudo-operation over bytes (R81). -/
def decodeWords (raw : List Byte) : List Word :=
  encode .rxClear :: raw.map (fun b => encode (.rxByte b)) ++ [encode .parse]

/-- The `CRC` pseudo-operation over bytes (R81). -/
def crcWords (data : List Byte) : List Word :=
  encode .crcInit :: data.map (fun b => encode (.crcByte b))

/-- The words of one "get weight" exchange, with the bytes the host received as reply (R235). -/
def getWeightWords (reply : List Byte) : List Word := encode (.build cmdGetWeight) :: decodeWords reply

/-- A space or a tab. -/
def isBlank (c : Char) : Bool := c == ' ' || c == '\t'

/-- Without the blanks at either end. -/
def trim (cs : List Char) : List Char := ((cs.dropWhile isBlank).reverse.dropWhile isBlank).reverse

/-- The parts between commas; no part for an empty text. -/
def splitCommas : List Char → List (List Char)
  | [] => [[]]
  | c :: cs =>
    if c = ',' then [] :: splitCommas cs
    else
      match splitCommas cs with
      | [] => [[c]]
      | p :: ps => (c :: p) :: ps

/-- The value of a hexadecimal digit, either case. -/
def hexDigit (c : Char) : Option Nat :=
  if '0' ≤ c ∧ c ≤ '9' then some (c.toNat - 48)
  else if 'A' ≤ c ∧ c ≤ 'F' then some (c.toNat - 55)
  else if 'a' ≤ c ∧ c ≤ 'f' then some (c.toNat - 87)
  else none

/-- Digits of a base read from left to right, starting from a value. -/
def digits (base : Nat) : Nat → List Char → Option Nat
  | acc, [] => some acc
  | acc, c :: cs =>
    match hexDigit c with
    | some d => if d < base then digits base (acc * base + d) cs else none
    | none => none

/-- A literal: `0x` and hexadecimal digits, or decimal digits (R80). -/
def literal (cs : List Char) : Option Nat :=
  match cs with
  | '0' :: 'x' :: d :: ds => digits 16 0 (d :: ds)
  | d :: ds => digits 10 0 (d :: ds)
  | [] => none

/-- The operands after the mnemonic: literals between commas, or none at all. -/
def operands (cs : List Char) : Option (List Nat) :=
  if trim cs = [] then some [] else (splitCommas cs).mapM (fun p => literal (trim p))

/-- A mnemonic with its operands as a line; none where R80 and R81 give no such line. -/
def lineOf (mnemonic : List Char) (ops : List Nat) : Option Asm :=
  if mnemonic = "CRC".toList then some (.crc ops)
  else if mnemonic = "RECV".toList then some (.recv ops)
  else if mnemonic = "DECODE".toList then some (.decode ops)
  else
    match ops with
    | [] =>
      if mnemonic = "NOP".toList then some .nop
      else if mnemonic = "CRC_INIT".toList then some .crcInit
      else if mnemonic = "RX_CLEAR".toList then some .rxClear
      else if mnemonic = "PARSE".toList then some .parse
      else if mnemonic = "GET_WEIGHT".toList then some .getWeight
      else none
    | [n] =>
      if mnemonic = "CRC_BYTE".toList then some (.crcByte n)
      else if mnemonic = "BUILD".toList then some (.build n)
      else if mnemonic = "RX_BYTE".toList then some (.rxByte n)
      else if mnemonic = ".word".toList then some (.word n)
      else none
    | _ => none

/-- The code of a line: what stands before the first `;`, without blanks at the ends (R80). -/
def codeOf (cs : List Char) : List Char := trim (cs.takeWhile (fun c => c != ';'))

/-- The words of one written line; a line with no code has none; an assembly error is none (R80). -/
def assembleLine (text : String) : Option (List Word) :=
  let code := codeOf text.toList
  if code = [] then some []
  else do
    let ops ← operands (code.dropWhile (fun c => !isBlank c))
    let line ← lineOf (code.takeWhile (fun c => !isBlank c)) ops
    assemble line

/-- The words of a text of lines, one operation a line (R80): every line assembles or none does. -/
def assembleLines (lines : List String) : Option (List Word) := (lines.mapM assembleLine).map List.flatten

end Sys2Proof.Machine
end

