-- ==== Sys2Proof/Safety.lean ====
section
/-!
DEFINITION. What counts as a good state, in the terms the claims use: the fault condition of
spec/60_exceptions.md R205, the invariant that rules out states no run reaches (spec/93_implementation_defined.md
I2), what the host can observe, and what a sequence of inputs carries for each of the block's three functions.
-/

namespace Sys2Proof.Machine

/-- 'A model treats ILL = 1 as a fault: the state is never a good final state' (R205). -/
def State.faultOf (s : State) : Option Fault := if s.ill then some .illegalOperation else none

/-- A good final state (R205). -/
def State.goodFinal (s : State) : Prop := s.faultOf = none

/-- The frame register holds eight zero bytes or a frame some BUILD makes (R23, R36, R101). -/
def State.frameOk (s : State) : Prop :=
  s.txf = Vector.replicate 8 0 ∨ ∃ code, s.txf = buildCommand code

/-- The result registers after reset, after a ShortResponse, or after a decode: 0b11 never stands in RES_STATUS,
only an OK decode leaves a field, and an absent tare is 0 (R26, R36, R153, R30). -/
def Results.legal (r : Results) : Prop :=
  r = Results.reset ∨ r = shortResults ∨ (r.status = statusOk ∧ (r.tareValid = false → r.tare = 0))

/-- The model's invariant: RXLEN is at most RX_MAX (R25), the results are legal, the frame is whole. -/
def State.Inv (s : State) : Prop :=
  s.rxlen.toNat ≤ Config.rxMax.toNat ∧ s.res.legal ∧ s.frameOk

/-- Two states the host cannot tell apart and that stay so: equal but for RXB bytes that no RX_BYTE has written
since RXLEN was last 0 (R38). -/
def State.sameButStale (s t : State) : Prop :=
  { s with rxb := t.rxb } = t ∧ ∀ k : Fin 13, k.val < s.rxlen.toNat → s.rxb[k] = t.rxb[k]

/-- All sixteen read registers agree (R33): everything the host can observe (R214). -/
def State.sameReads (s t : State) : Prop := ∀ sel : BitVec 4, readPort sel s = readPort sel t

/-- The operation an input makes the block perform, if any: none for a reset and for an illegal word. -/
def performed : Input → Option Instr
  | .word w =>
    match decode w with
    | .instr i => some i
    | .illegal _ => none
  | .reset => none
  | .resetWithWord _ => none

/-- The input is a reset event, alone or with a word. -/
def isReset : Input → Bool
  | .word _ => false
  | .reset => true
  | .resetWithWord _ => true

/-- The block's functions, which share no state (R242, R39). -/
inductive BlockFunction where
  | none
  | crc
  | frame
  | parser
  deriving DecidableEq, Repr

/-- Whose operation it is (R1, R75); NOP is nobody's. -/
def functionOf : Instr → BlockFunction
  | .nop => .none
  | .crcInit => .crc
  | .crcByte _ => .crc
  | .build _ => .frame
  | .rxClear => .parser
  | .rxByte _ => .parser
  | .parse => .parser

/-- The bytes an input sequence hands to CRC_BYTE, in order. -/
def crcBytes (es : List Input) : List Byte :=
  es.filterMap (fun e => match performed e with | some (.crcByte b) => some b | _ => none)

/-- The bytes an input sequence hands to RX_BYTE, in order. -/
def rxBytes (es : List Input) : List Byte :=
  es.filterMap (fun e => match performed e with | some (.rxByte b) => some b | _ => none)

/-- A whole byte sequence received at any RX_MAX, byte by byte (R9, R152). -/
def receiveAll (rxMax : Count) (raw : List Byte) (s : State) : State :=
  raw.foldl (fun u b => receiveByte rxMax b u) s

/-- The machine after exactly the given inputs, presented before anything waiting on the port. -/
def run (es : List Input) (s : State) : Host.Outcome State Fault Refusal :=
  Sys2Proof.core.run es.length (presenting es s)

end Sys2Proof.Machine
end

