-- ==== Sys2Proof/Certificates/Slice0/Obligations.lean ====
section
/-!
DEFINITION. The statements for the provers: what the spec's numbered rules say the block does. In the statements
`.next t` is the next state of a step; a frame is carried by an equation on the whole next state, or said field by
field. RXB after a reset event is a free value (log entry 3), and no statement says what it is.
-/

open Sys2Proof Sys2Proof.Machine

/-! ## Encoding -/

/-- Words written out bit by bit from R75's patterns decode to the operations they stand for. -/
def Obligations.WrittenOutWordsDecode : Prop :=
  decode 0b0000000000000000 = .instr .nop ∧ decode 0b0001000000000000 = .instr .crcInit ∧
  decode 0b0010000000100011 = .instr (.crcByte 0x23) ∧ decode 0b0011000000100011 = .instr (.build 0x23) ∧
  decode 0b0100000000000000 = .instr .rxClear ∧ decode 0b0101000010101010 = .instr (.rxByte 0xAA) ∧
  decode 0b0110000000000000 = .instr .parse ∧ decode 0b0111000000000000 = .illegal .unassignedOpc

/-- R72, R78: decoding the word of any operation, at every operand, gives that operation back. -/
def Obligations.EncodeThenDecode : Prop := ∀ i : Instr, decode (encode i) = .instr i

/-- R75, R78, D6: a legal word is the word of the operation it decodes to; every spelling has one meaning. -/
def Obligations.DecodeThenEncode : Prop := ∀ (w : Word) (i : Instr), decode w = .instr i → encode i = w

/-- R76: a word is Illegal exactly when OPC is 0x7 to 0xF, or RSV is not zero, or DATA is not zero on an operation
without operand; 772 words are legal and 64,764 illegal; an illegal word performs nothing and sets ILL. -/
def Obligations.IllegalWordsAreThese : Prop :=
  (∀ w : Word, (∃ why, decode w = .illegal why) ↔
    (7 ≤ (opcOf w).toNat ∨ rsvOf w ≠ 0 ∨ (opcOf w ∈ [0x0, 0x1, 0x4, 0x6] ∧ dataOf w ≠ 0))) ∧
  (Finset.univ.filter (fun w : Word => isLegal (decode w) = true)).card = 772 ∧
  (Finset.univ.filter (fun w : Word => isLegal (decode w) = false)).card = 64764 ∧
  (∀ w why s, decode w = .illegal why → acceptWord w s = .next { s with ill := true })

/-- R75: the match and mask pairs select, for each word, exactly the operation the decoder gives, and no word
matches two rows. -/
def Obligations.OpcodeMapSelectsWhatDecodes : Prop :=
  ∀ w : Word,
    selectedOps w = match decode w with
      | .instr i => [i]
      | .illegal _ => []

/-- R76, R78, R72: a word meets the three conditions of legality exactly when the decoder reads an operation from it,
and exactly when it is the encoder's word of some operation. -/
def Obligations.LegalityAgreesWithDecoder : Prop :=
  ∀ w : Word, (w.wellFormed = true ↔ isLegal (decode w) = true) ∧ (w.wellFormed = true ↔ ∃ i, w = encode i)

/-! ## A step -/

/-- R14, R70, R231, R215: the step accepts the oldest input and takes it off the port. A word that decodes runs its
operation, an illegal one sets ILL, a reset wins over a word, and with no input the state is held (log entries 5, 6). -/
def Obligations.StepRunsTheDecodedOperation : Prop :=
  (∀ s w rest i, s.port = .word w :: rest → decode w = .instr i → step s = exec i { s with port := rest }) ∧
  (∀ s w rest why, s.port = .word w :: rest → decode w = .illegal why →
    step s = .next { s with port := rest, ill := true }) ∧
  (∀ s rest, s.port = .reset :: rest → step s = .next (resetBlock { s with port := rest })) ∧
  (∀ s w rest, s.port = .resetWithWord w :: rest → step s = .next (resetBlock { s with port := rest })) ∧
  (∀ s, s.port = [] → step s = .next s)

/-- Every step answers a next state and takes exactly one waiting input, if there is one. No operation stops the block
(R70, R203), nor does a short PARSE (R200), an illegal word (R204) or a reset (R230). The model's choices, not the
spec's: the inputs stand in the list `port` (log entry 5), a step with nothing waiting holds the state (log entry 6,
beside R215), and a reset leaves the inputs behind it (log entry 8). -/
def Obligations.EveryStepAnswersNext : Prop :=
  ∀ s : State, ∃ t, step s = .next t ∧ t.port = s.port.tail

/-! ## The operations -/

/-- R180: NOP changes nothing; every other word with OPC 0x0 is illegal; an all-zero word on an idle port is NOP. -/
def Obligations.NopChangesNothing : Prop :=
  decode 0x0000 = .instr .nop ∧ (∀ s, exec .nop s = .next s) ∧ (∀ s, acceptInput (.word 0) s = .next s) ∧
  (∀ w, opcOf w = 0x0 → w ≠ 0x0000 → ∃ why, decode w = .illegal why)

/-- R124: CRC_INIT sets CRC to 0xFFFF and changes nothing else; every other word with OPC 0x1 is illegal. -/
def Obligations.CrcInitSetsTheInitialValue : Prop :=
  decode 0x1000 = .instr .crcInit ∧ (∀ s, exec .crcInit s = .next { s with crc := 0xFFFF }) ∧
  (∀ w, opcOf w = 0x1 → w ≠ 0x1000 → ∃ why, decode w = .illegal why)

/-- R125: CRC_BYTE b replaces CRC by crc_update(CRC, b) and changes nothing else, for every b; the corner cases and
the worked example of the rule. -/
def Obligations.CrcByteUpdatesTheRegister : Prop :=
  (∀ b : Byte, decode ((0x20 : Byte) ++ b) = .instr (.crcByte b)) ∧
  (∀ b s, exec (.crcByte b) s = .next { s with crc := crcUpdate s.crc b }) ∧
  crcUpdate 0xFFFF 0x00 = 0xE1F0 ∧ crcUpdate 0xFFFF 0xFF = 0xFF00 ∧ crcUpdate 0xFFFF 0x23 = 0xF5F1 ∧
  State.reset.crc = 0xFFFF ∧
  (∀ b code s t, exec (.build code) s = .next t →
    ∃ u, exec (.crcByte b) t = .next u ∧ u.crc = crcUpdate s.crc b)

/-- R122, in numbers: a round doubles the register modulo 2^16 and XORs 0x1021 exactly when bit 15 was set; an
update XORs the byte into bits [15:8] and then makes eight rounds. -/
def Obligations.CrcUpdateIsEightRounds : Prop :=
  ∀ (c : Word) (b : Byte),
    (crcRound c).toNat =
      (if 2 ^ 15 ≤ c.toNat then (2 * c.toNat % 2 ^ 16) ^^^ 0x1021 else 2 * c.toNat % 2 ^ 16) ∧
    crcUpdate c b = crcRound^[8] (c ^^^ BitVec.ofNat 16 (256 * b.toNat))

/-- R121, R127: crc16 of the empty sequence is 0xFFFF, and one more byte is one more crc_update, with no final XOR. -/
def Obligations.CrcOfASequence : Prop :=
  crc16 [] = 0xFFFF ∧ ∀ (data : List Byte) (b : Byte), crc16 (data ++ [b]) = crcUpdate (crc16 data) b

/-- R126: a register wider than 16 bits by any number of bits, truncated only at the end, gives the same CRC. -/
def Obligations.WiderCrcRegisterAgrees : Prop :=
  ∀ (extra : Nat) (data : List Byte), crc16Wide extra data = (crc16 data).toNat

/-- R130: crc16([0x23]) = 0xF5F1, with the register after the XOR and after each of the eight rounds, and which
rounds (1, 2, 4 and 8) start with bit 15 set. -/
def Obligations.CrcReferenceValue : Prop :=
  crc16 [0x23] = 0xF5F1 ∧ (0xFFFF ^^^ inHighByte 0x23 : Word) = 0xDCFF ∧
  [1, 2, 3, 4, 5, 6, 7, 8].map (fun n => crcRounds n 0xDCFF) =
    [0xA9DF, 0x439F, 0x873E, 0x1E5D, 0x3CBA, 0x7974, 0xF2E8, 0xF5F1] ∧
  [0, 1, 2, 3, 4, 5, 6, 7].map (fun n => (crcRounds n 0xDCFF).getLsbD 15) =
    [true, true, false, true, false, false, false, true]

/-- R100, R101: BUILD code writes the preamble, the code and its CRC, low byte first, into TXF and changes nothing
else, for every code; with RSV not zero the word is illegal; the corner cases, two BUILDs in a row, and the worked
example. -/
def Obligations.BuildWritesTheFrame : Prop :=
  (∀ code : Byte, decode ((0x30 : Byte) ++ code) = .instr (.build code)) ∧
  (∀ w, opcOf w = 0x3 → rsvOf w ≠ 0 → ∃ why, decode w = .illegal why) ∧
  (∀ code s, exec (.build code) s = .next { s with txf :=
    #v[0xF8, 0x55, 0xCE, 0x01, 0x00, code, (crc16 [code]).extractLsb' 0 8, (crc16 [code]).extractLsb' 8 8] }) ∧
  buildCommand 0x00 = #v[0xF8, 0x55, 0xCE, 0x01, 0x00, 0x00, 0xF0, 0xE1] ∧
  buildCommand 0xFF = #v[0xF8, 0x55, 0xCE, 0x01, 0x00, 0xFF, 0x00, 0xFF] ∧
  (∀ c d s t, exec (.build c) s = .next t → exec (.build d) t = exec (.build d) s) ∧
  (∀ s t, exec (.build 0x23) s = .next t → t.txf = #v[0xF8, 0x55, 0xCE, 0x01, 0x00, 0x23, 0xF1, 0xF5] ∧
    readPort 1 t = 0x01CE55F8 ∧ readPort 2 t = 0xF5F12300)

/-- R54, R102: frame byte 6 is the low byte and frame byte 7 the high byte of the CRC of frame byte 5 alone. -/
def Obligations.ChecksumIsLittleEndianOfTheCode : Prop :=
  ∀ (code : Byte) (s : State), ∃ t, exec (.build code) s = .next t ∧
    t.txf[6].toNat = (crc16 [t.txf[5]]).toNat % 256 ∧ t.txf[7].toNat = (crc16 [t.txf[5]]).toNat / 256 ∧
    le16 t.txf[6] t.txf[7] = crc16 [code]

/-- R151: RX_CLEAR sets RXLEN to 0 and changes nothing else, RXB included; every other word with OPC 0x4 is
illegal. -/
def Obligations.RxClearZeroesTheCount : Prop :=
  decode 0x4000 = .instr .rxClear ∧ (∀ s, exec .rxClear s = .next { s with rxlen := 0 }) ∧
  (∀ s t, exec .rxClear s = .next t → readPort 3 t = 0) ∧
  (∀ w, opcOf w = 0x4 → w ≠ 0x4000 → ∃ why, decode w = .illegal why)

/-- R152: RX_BYTE b stores at offset RXLEN below 13, counts below RX_MAX, and does nothing at RX_MAX. -/
def Obligations.RxByteStoresAndCounts : Prop :=
  (∀ b : Byte, decode ((0x50 : Byte) ++ b) = .instr (.rxByte b)) ∧
  (∀ b s, ∀ h : s.rxlen.toNat < 13,
    exec (.rxByte b) s = .next { s with rxb := s.rxb.set s.rxlen.toNat b h, rxlen := s.rxlen + 1 }) ∧
  (∀ b s, 13 ≤ s.rxlen.toNat → s.rxlen.toNat < Config.rxMax.toNat →
    exec (.rxByte b) s = .next { s with rxlen := s.rxlen + 1 }) ∧
  (∀ b s, Config.rxMax.toNat ≤ s.rxlen.toNat → exec (.rxByte b) s = .next s)

/-- R24, R39, R152: RX_BYTE writes its byte at its store offset, changes no other byte of RXB, and changes nothing but
RXB and RXLEN (what it does to RXLEN is RxByteStoresAndCounts). -/
def Obligations.RxByteStoresOnlyAtItsOffset : Prop :=
  ∀ b s t, exec (.rxByte b) s = .next t →
    (∀ k : Fin 13, storeOffset s.rxlen ≠ some k → t.rxb[k] = s.rxb[k]) ∧
    (∀ k : Fin 13, storeOffset s.rxlen = some k → t.rxb[k] = b) ∧
    t.crc = s.crc ∧ t.txf = s.txf ∧ t.res = s.res ∧ t.ill = s.ill ∧ t.port = s.port ∧ t.freeIndex = s.freeIndex

/-- R153, R200: PARSE below 13 received bytes reports SHORT with every field zero, and otherwise decodes the stored
bytes, tare only from 17 received bytes on; it changes nothing but the result registers, and a second PARSE changes
nothing. -/
def Obligations.ParseDecodesOrReportsShort : Prop :=
  decode 0x6000 = .instr .parse ∧
  (∀ s, s.rxlen.toNat < 13 → exec .parse s = .next { s with res :=
    { status := 0b10, weight := 0, division := 0, stable := false, net := false, zero := false, tare := 0,
      tareValid := false } }) ∧
  (∀ s, 13 ≤ s.rxlen.toNat → exec .parse s = .next { s with res :=
    { status := 0b01
      weight := s.rxb[4] ++ s.rxb[3] ++ s.rxb[2] ++ s.rxb[1]
      division := s.rxb[5]
      stable := decide (s.rxb[6] = 0x01)
      net := decide (s.rxb[7] = 0x01)
      zero := decide (s.rxb[8] = 0x01)
      tare := if 17 ≤ s.rxlen.toNat then s.rxb[12] ++ s.rxb[11] ++ s.rxb[10] ++ s.rxb[9] else 0
      tareValid := decide (17 ≤ s.rxlen.toNat) } }) ∧
  (∀ s t, exec .parse s = .next t → exec .parse t = .next t) ∧
  (∀ w, opcOf w = 0x6 → w ≠ 0x6000 → ∃ why, decode w = .illegal why)

/-- R39: the write matrix. Whatever an operation, an illegal word or a reset changes stands in its row. -/
def Obligations.WriteMatrix : Prop :=
  (∀ i s t, exec i s = .next t →
    (t.crc ≠ s.crc → i = .crcInit ∨ ∃ b, i = .crcByte b) ∧
    (t.txf ≠ s.txf → ∃ code, i = .build code) ∧
    (t.rxb ≠ s.rxb → s.rxlen.toNat < 13 ∧ ∃ b, i = .rxByte b) ∧
    (t.rxlen ≠ s.rxlen → i = .rxClear ∨ s.rxlen.toNat < Config.rxMax.toNat ∧ ∃ b, i = .rxByte b) ∧
    (t.res ≠ s.res → i = .parse) ∧
    t.ill = s.ill ∧ t.port = s.port ∧ t.freeIndex = s.freeIndex) ∧
  (∀ w why s, decode w = .illegal why → acceptInput (.word w) s = .next { s with ill := true }) ∧
  (∀ e s t, isReset e = true → acceptInput e s = .next t →
    t.crc = State.reset.crc ∧ t.txf = State.reset.txf ∧ t.rxlen = State.reset.rxlen ∧ t.res = State.reset.res ∧
    t.ill = State.reset.ill)

/-- R242: an operation that is not the CRC's leaves CRC, one that is not the frame's leaves TXF, one that is not the
parser's leaves RXB, RXLEN and the results; so operations of different functions commute. -/
def Obligations.FunctionsInterleaveFreely : Prop :=
  (∀ i s t, exec i s = .next t →
    (functionOf i ≠ .crc → t.crc = s.crc) ∧
    (functionOf i ≠ .frame → t.txf = s.txf) ∧
    (functionOf i ≠ .parser → t.rxb = s.rxb ∧ t.rxlen = s.rxlen ∧ t.res = s.res)) ∧
  (∀ i j s a b, functionOf i ≠ functionOf j → exec i s = .next a → exec j s = .next b → exec j a = exec i b)

/-- R61: CRC_INIT, BUILD, RX_CLEAR, PARSE and NOP done twice in a row leave what once leaves; RX_BYTE below RX_MAX
does not. (R61 also says that each CRC_BYTE changes CRC; a zero byte on a zero register does not, log entry 15.) -/
def Obligations.IdempotentOperations : Prop :=
  (∀ i s t, (i = .nop ∨ i = .crcInit ∨ (∃ code, i = .build code) ∨ i = .rxClear ∨ i = .parse) →
    exec i s = .next t → exec i t = .next t) ∧
  (∀ b s t, s.rxlen.toNat < Config.rxMax.toNat → exec (.rxByte b) s = .next t →
    t.rxlen.toNat = s.rxlen.toNat + 1)

/-! ## Reset, faults and the invariant -/

/-- R36: the reset values. (RXB's is unspecified and not stated.) -/
def Obligations.ResetValues : Prop :=
  State.reset.crc = 0xFFFF ∧ (∀ k : Fin 8, State.reset.txf[k] = 0x00) ∧ State.reset.rxlen = 0 ∧
  State.reset.res.status = 0b00 ∧ State.reset.res.weight = 0 ∧ State.reset.res.division = 0 ∧
  State.reset.res.stable = false ∧ State.reset.res.net = false ∧ State.reset.res.zero = false ∧
  State.reset.res.tare = 0 ∧ State.reset.res.tareValid = false ∧ State.reset.ill = false

/-- R231, R230: a reset event, alone or with any word, legal or not, leaves the reset state (RXB apart), and the word
does not set ILL. -/
def Obligations.ResetEventWins : Prop :=
  ∀ e s, isReset e = true →
    ∃ t, acceptInput e s = .next t ∧
      { t with rxb := State.reset.rxb, port := [], freeIndex := 0 } = State.reset

/-- R204, R31: an illegal word sets ILL and changes nothing else; no operation writes ILL or reads it, so a legal
operation does the same whatever ILL holds; a reset clears it. -/
def Obligations.IllegalWordSetsStickyIll : Prop :=
  (∀ w why s, decode w = .illegal why → acceptWord w s = .next { s with ill := true }) ∧
  (∀ i s t, exec i s = .next t → t.ill = s.ill) ∧
  (∀ i s t v, exec i s = .next t → exec i { s with ill := v } = .next { t with ill := v }) ∧
  (∀ e s t, isReset e = true → acceptInput e s = .next t → t.ill = false)

/-- R202, R230: after any input, ILL is set exactly when the input is no reset and ILL was set or the input was an
illegal word; and only a reset returns RES_STATUS to IDLE. -/
def Obligations.OnlyResetClearsIllAndStatus : Prop :=
  ∀ e s t, acceptInput e s = .next t →
    (t.ill = true ↔ isReset e = false ∧ (s.ill = true ∨ performed e = none)) ∧
    (isReset e = false → t.res.status = 0b00 → s.res.status = 0b00)

/-- R205: a run without a reset that ends in a good state began in one and presented no illegal word. -/
def Obligations.GoodEndMeansNoIllegalWord : Prop :=
  ∀ (es : List Input) (s t : State), run es s = .next t → (∀ e ∈ es, isReset e = false) → t.goodFinal →
    s.goodFinal ∧ ∀ e ∈ es, ∃ i, performed e = some i

/-- The invariant is inductive: RXLEN at most RX_MAX (R25), RES_STATUS never 0b11 and no field left by a failed
parse, an absent tare 0 (R26, R153), TXF zero or a whole frame with the CRC of its own code (R23, R105). -/
def Obligations.EveryStepKeepsTheInvariant : Prop :=
  ∀ s t : State, s.Inv → step s = .next t → t.Inv

/-- The invariant holds right after reset, whatever RXB, the waiting inputs and the count of free values. -/
def Obligations.ResetMeetsTheInvariant : Prop :=
  ∀ rxb port n, State.Inv { State.reset with rxb := rxb, port := port, freeIndex := n }

/-- What the invariant says to the host: RXLEN is at most RX_MAX, RES_STATUS is not 0b11, and unless it is OK every
result field reads 0. -/
def Obligations.InvariantSeenThroughTheReadPort : Prop :=
  ∀ s : State, s.Inv →
    (readPort 3 s).toNat ≤ Config.rxMax.toNat ∧ (readPort 4 s).toNat % 4 ≠ 3 ∧
    ((readPort 4 s).toNat % 4 ≠ 1 →
      readPort 5 s = 0 ∧ readPort 6 s = 0 ∧ readPort 7 s = 0 ∧ (readPort 4 s).toNat / 4 % 16 = 0)

/-! ## The read port -/

/-- R57, R33: the read registers, in numbers; selects 0x8 to 0xF read 0. -/
def Obligations.ReadRegisterMap : Prop :=
  ∀ s : State,
    (readPort 0 s).toNat = s.crc.toNat ∧
    (readPort 1 s).toNat = s.txf[0].toNat + 2 ^ 8 * s.txf[1].toNat + 2 ^ 16 * s.txf[2].toNat + 2 ^ 24 * s.txf[3].toNat ∧
    (readPort 2 s).toNat = s.txf[4].toNat + 2 ^ 8 * s.txf[5].toNat + 2 ^ 16 * s.txf[6].toNat + 2 ^ 24 * s.txf[7].toNat ∧
    (readPort 3 s).toNat = s.rxlen.toNat ∧ readPort 5 s = s.res.weight ∧
    (readPort 6 s).toNat = s.res.division.toNat ∧ readPort 7 s = s.res.tare ∧
    ∀ sel : BitVec 4, 8 ≤ sel.toNat → readPort sel s = 0

/-- R34: the fields of STATUS: RES_STATUS in bits [1:0], stable 2, net 3, zero 4, tare-valid 5, ILL 6, 0 above. -/
def Obligations.StatusFields : Prop :=
  ∀ s : State,
    (readPort 4 s).extractLsb' 0 2 = s.res.status ∧ (readPort 4 s).getLsbD 2 = s.res.stable ∧
    (readPort 4 s).getLsbD 3 = s.res.net ∧ (readPort 4 s).getLsbD 4 = s.res.zero ∧
    (readPort 4 s).getLsbD 5 = s.res.tareValid ∧ (readPort 4 s).getLsbD 6 = s.ill ∧
    (readPort 4 s).toNat < 2 ^ 7 ∧ readPort 4 State.reset = 0

/-- R241: a read made in the same step as an input gives the value before the input. -/
def Obligations.ReadSeesTheStateBefore : Prop :=
  ∀ sel e s, (acceptWhileReading sel e s).1 = readPort sel s ∧ (acceptWhileReading sel e s).2 = acceptInput e s

/-! ## Numbers and the parser function -/

/-- R55, R11: LE32 is the sum of its bytes by weight, s32 is two's complement, and u32 undoes it. -/
def Obligations.LittleEndianAndTwosComplement : Prop :=
  (∀ b0 b1 b2 b3 : Byte,
    (le32 b0 b1 b2 b3).toNat = b0.toNat + 2 ^ 8 * b1.toNat + 2 ^ 16 * b2.toNat + 2 ^ 24 * b3.toNat) ∧
  (∀ v : DWord, s32 v = (v.toNat : Int) - (if 2 ^ 31 ≤ v.toNat then 2 ^ 32 else 0) ∧ u32 (s32 v) = v)

/-- R141, R145, R148: 0 to 12 bytes fail; 13 to 16 give a reading with tare 0 and absent; 17 or more one with the
tare of bytes 9 to 12. Weight, division and the flags stand at their offsets (R142 to R144). -/
def Obligations.ResponseLengthClasses : Prop :=
  ∀ raw : List Byte,
    (raw.length < 13 → parseResponse raw = .failed .shortResponse) ∧
    (13 ≤ raw.length → ∃ r, parseResponse raw = .reading r ∧
      r.weight = s32 (le32 (raw.getD 1 0) (raw.getD 2 0) (raw.getD 3 0) (raw.getD 4 0)) ∧
      r.division = raw.getD 5 0 ∧ (r.stable = true ↔ raw.getD 6 0 = 0x01) ∧
      (r.net = true ↔ raw.getD 7 0 = 0x01) ∧ (r.zero = true ↔ raw.getD 8 0 = 0x01) ∧
      (raw.length < 17 → r.tare = 0 ∧ r.tarePresent = false) ∧
      (17 ≤ raw.length →
        r.tare = s32 (le32 (raw.getD 9 0) (raw.getD 10 0) (raw.getD 11 0) (raw.getD 12 0)) ∧ r.tarePresent = true))

/-- R146, R147: byte 0 and the bytes from offset 13 on change nothing; beyond bytes 1 to 12 only the length class
counts. -/
def Obligations.UninterpretedBytesChangeNothing : Prop :=
  ∀ raw other : List Byte,
    (∀ k, 1 ≤ k → k ≤ 12 → raw[k]? = other[k]?) → (13 ≤ raw.length ↔ 13 ≤ other.length) →
    (17 ≤ raw.length ↔ 17 ≤ other.length) → parseResponse raw = parseResponse other

/-- R156: a signed 32-bit value laid low byte first at offsets 1 to 4 (9 to 12 for tare) is parsed back to itself. -/
def Obligations.SignedValuesSurvive : Prop :=
  ∀ (w : Int) (raw : List Byte), -2 ^ 31 ≤ w → w < 2 ^ 31 →
    (13 ≤ raw.length → (∀ k < 4, raw[1 + k]? = some (byteOf (u32 w) k)) →
      ∃ r, parseResponse raw = .reading r ∧ r.weight = w) ∧
    (17 ≤ raw.length → (∀ k < 4, raw[9 + k]? = some (byteOf (u32 w) k)) →
      ∃ r, parseResponse raw = .reading r ∧ r.tare = w ∧ r.tarePresent = true)

/-! ## Runs of operations against the functions -/

/-- R128: the operations of CRC leave crc16 of their bytes in CRC; after CRC_INIT, a run without another CRC_INIT and
without a reset leaves there the crc16 of the bytes its CRC_BYTEs carried, whatever else is interleaved; right after
reset the CRC_INIT may be left out (R234). -/
def Obligations.CrcRunComputesCrc16 : Prop :=
  (∀ (data : List Byte) (s : State), ∃ t, run ((crcWords data).map .word) s = .next t ∧ t.crc = crc16 data) ∧
  ∀ es : List Input, (∀ e ∈ es, isReset e = false ∧ performed e ≠ some .crcInit) →
    (∀ s, ∃ t, run (.word (encode .crcInit) :: es) s = .next t ∧ t.crc = crc16 (crcBytes es)) ∧
    ∃ t, run es State.reset = .next t ∧ t.crc = crc16 (crcBytes es)

/-- R24, R25, R152: a run from RXLEN = 0 without RX_CLEAR and without a reset leaves in RXLEN the number of bytes its
RX_BYTEs carried, saturating at RX_MAX, and in RXB the first 13 of them at their offsets. -/
def Obligations.ReceiveRunCountsAndStores : Prop :=
  ∀ (es : List Input) (s : State), (∀ e ∈ es, isReset e = false ∧ performed e ≠ some .rxClear) → s.rxlen = 0 →
    ∃ t, run es s = .next t ∧ t.rxlen.toNat = min (rxBytes es).length Config.rxMax.toNat ∧
      ∀ k : Fin 13, k.val < (rxBytes es).length → (rxBytes es)[k.val]? = some t.rxb[k]

/-- R154: the operations of DECODE leave what parseResponse answers, for every byte sequence of any length, and leave
the other functions' state; and any inputs but RX_CLEAR, RX_BYTE and reset may be interleaved: the PARSE at the end
answers parseResponse of the bytes the RX_BYTEs carried. -/
def Obligations.DecodeRunAgreesWithParseResponse : Prop :=
  (∀ (raw : List Byte) (s : State), ∃ t, run ((decodeWords raw).map .word) s = .next t ∧
    (match parseResponse raw with
     | .failed .shortResponse => t.res =
        { status := 0b10, weight := 0, division := 0, stable := false, net := false, zero := false, tare := 0,
          tareValid := false }
     | .reading r => t.res =
        { status := 0b01, weight := u32 r.weight, division := r.division, stable := r.stable, net := r.net,
          zero := r.zero, tare := u32 r.tare, tareValid := r.tarePresent }) ∧
    t.crc = s.crc ∧ t.txf = s.txf ∧ t.ill = s.ill) ∧
  (∀ (es : List Input) (s : State), (∀ e ∈ es, isReset e = false ∧ performed e ≠ some .rxClear) →
    ∃ t, run (.word (encode .rxClear) :: es ++ [.word (encode .parse)]) s = .next t ∧
      t.res = resultsOf (parseResponse (rxBytes es)))

/-- R155: without a PARSE and without a reset the result registers hold what they held. -/
def Obligations.ResultsHoldUntilTheNextParse : Prop :=
  ∀ (es : List Input) (s : State), (∀ e ∈ es, isReset e = false ∧ performed e ≠ some .parse) →
    ∃ t, run es s = .next t ∧ t.res = s.res

/-- R9: at every RX_MAX of 17 or more that the counter can hold, PARSE after a whole response gives the same results:
those of parseResponse. -/
def Obligations.ParseDoesNotDependOnRxMax : Prop :=
  ∀ (rxMax : Count) (raw : List Byte) (s : State), 17 ≤ rxMax.toNat → s.rxlen = 0 →
    ∃ t, exec .parse (receiveAll rxMax raw s) = .next t ∧ t.res = resultsOf (parseResponse raw)

/-- R38, as a relation every step keeps: states that differ only in RXB bytes not written since RXLEN was last 0 read
the same in every register, and one step takes them to such states again. -/
def Obligations.StaleBytesAreNeverObserved : Prop :=
  ∀ s t : State, s.sameButStale t → s.sameReads t ∧
    ∀ s', step s = .next s' → ∃ t', step t = .next t' ∧ s'.sameButStale t'

/-- R38: RXB's value at reset is never observable: whatever it is, every run reads the same in every register. -/
def Obligations.AnyInitialRxbLooksTheSame : Prop :=
  ∀ (v : Vector Byte 13) (es : List Input), ∃ s t,
    run es State.reset = .next s ∧ run es { State.reset with rxb := v } = .next t ∧ s.sameReads t

/-- R235, R153, R154: the operations of one get-weight exchange: the frame to send stands in TXLO and TXHI, and the
reply's whole reading, flags included, in STATUS, WEIGHT, DIVISION and TARE; a short reply leaves SHORT there with
every flag and field 0. -/
def Obligations.GetWeightExchange : Prop :=
  ∀ (reply : List Byte) (s : State), ∃ t, run ((getWeightWords reply).map .word) s = .next t ∧
    readPort 1 t = 0x01CE55F8 ∧ readPort 2 t = 0xF5F12300 ∧
    (match parseResponse reply with
     | .failed .shortResponse => (readPort 4 t).extractLsb' 0 2 = 0b10 ∧
        (readPort 4 t).getLsbD 2 = false ∧ (readPort 4 t).getLsbD 3 = false ∧ (readPort 4 t).getLsbD 4 = false ∧
        (readPort 4 t).getLsbD 5 = false ∧ readPort 5 t = 0 ∧ readPort 6 t = 0 ∧ readPort 7 t = 0
     | .reading r => (readPort 4 t).extractLsb' 0 2 = 0b01 ∧ s32 (readPort 5 t) = r.weight ∧
        (readPort 6 t).toNat = r.division.toNat ∧ s32 (readPort 7 t) = r.tare ∧
        (readPort 4 t).getLsbD 2 = r.stable ∧ (readPort 4 t).getLsbD 3 = r.net ∧ (readPort 4 t).getLsbD 4 = r.zero ∧
        (readPort 4 t).getLsbD 5 = r.tarePresent)

/-! ## The assembler -/

/-- R81: what each pseudo-operation expands to, for every byte list, the empty one included. -/
def Obligations.PseudoOperationsExpand : Prop :=
  assemble .getWeight = assemble (.build 0x23) ∧ assemble .getWeight = some [0x3023] ∧
  ∀ bytes : List Byte,
    assemble (.crc (bytes.map BitVec.toNat)) =
      some (0x1000 :: bytes.map (fun b => (0x20 : Byte) ++ b)) ∧
    assemble (.recv (bytes.map BitVec.toNat)) =
      some (0x4000 :: bytes.map (fun b => (0x50 : Byte) ++ b)) ∧
    assemble (.decode (bytes.map BitVec.toNat)) =
      some (0x4000 :: bytes.map (fun b => (0x50 : Byte) ++ b) ++ [0x6000])

/-- R80: an operand outside 0 to 255 is an assembly error; `.word` gives its word unchanged; and every other line
that assembles gives legal words only. -/
def Obligations.AssemblyErrorsAndLegalWords : Prop :=
  (∀ n, (assemble (.crcByte n) = none ↔ 255 < n) ∧ (assemble (.build n) = none ↔ 255 < n) ∧
    (assemble (.rxByte n) = none ↔ 255 < n)) ∧
  (∀ w : Word, assemble (.word w.toNat) = some [w]) ∧
  (∀ line ws, assemble line = some ws → (∀ w, line ≠ .word w) → ∀ w ∈ ws, w.wellFormed = true)
end

