-- ==== Sys2Proof/Laws/Encoding.lean ====
section
/-!
SUPPORT. The fields of a word put together from its parts, as numbers, for reasoning about the encoder and the
decoder.
-/

namespace Sys2Proof

theorem opcOf_toNat (w : Word) : (opcOf w).toNat = w.toNat / 4096 := by
  have := w.isLt
  simp only [opcOf, BitVec.extractLsb'_toNat, Nat.shiftRight_eq_div_pow]
  omega

theorem rsvOf_toNat (w : Word) : (rsvOf w).toNat = w.toNat / 256 % 16 := by
  simp [rsvOf, BitVec.extractLsb'_toNat, Nat.shiftRight_eq_div_pow]

theorem dataOf_toNat (w : Word) : (dataOf w).toNat = w.toNat % 256 := by
  simp [dataOf, BitVec.extractLsb'_toNat]

theorem wordOf_toNat (opc : BitVec 4) (data : Byte) :
    (wordOf opc data).toNat = opc.toNat * 4096 + data.toNat := by
  have hd := data.isLt
  have h0 : (0 : BitVec 4).toNat = 0 := rfl
  rw [wordOf, BitVec.toNat_append, BitVec.toNat_append, h0, Nat.or_zero, ← Nat.shiftLeft_add_eq_or_of_lt hd,
    Nat.shiftLeft_eq, Nat.shiftLeft_eq]
  omega

theorem opcOf_wordOf (opc : BitVec 4) (data : Byte) : opcOf (wordOf opc data) = opc := by
  apply BitVec.eq_of_toNat_eq
  have := data.isLt
  rw [opcOf_toNat, wordOf_toNat]
  omega

theorem rsvOf_wordOf (opc : BitVec 4) (data : Byte) : rsvOf (wordOf opc data) = 0 := by
  apply BitVec.eq_of_toNat_eq
  have := data.isLt
  have h0 : (0 : BitVec 4).toNat = 0 := rfl
  rw [rsvOf_toNat, wordOf_toNat, h0]
  omega

@[simp] theorem dataOf_wordOf (opc : BitVec 4) (data : Byte) : dataOf (wordOf opc data) = data := by
  apply BitVec.eq_of_toNat_eq
  have := data.isLt
  rw [dataOf_toNat, wordOf_toNat]
  omega

/-- A word with RSV = 0 is put together from its OPC and its DATA. -/
theorem wordOf_fields {w : Word} (h : rsvOf w = 0) : wordOf (opcOf w) (dataOf w) = w := by
  have hr : w.toNat / 256 % 16 = 0 := by rw [← rsvOf_toNat, h]; rfl
  apply BitVec.eq_of_toNat_eq
  rw [wordOf_toNat, opcOf_toNat, dataOf_toNat]
  omega

/-- The word written as its high byte and its DATA byte. -/
theorem append_eq_wordOf (opc : BitVec 4) (b : Byte) (h : Byte) (hh : h.toNat = opc.toNat * 16) :
    (h ++ b : Word) = wordOf opc b := by
  apply BitVec.eq_of_toNat_eq
  have hb := b.isLt
  rw [wordOf_toNat, BitVec.toNat_append, ← Nat.shiftLeft_add_eq_or_of_lt hb, Nat.shiftLeft_eq, hh]
  omega

theorem opcOf_eq {w : Word} {n : Nat} (h : (opcOf w).toNat = n) : opcOf w = BitVec.ofNat 4 n := by
  have := (opcOf w).isLt
  apply BitVec.eq_of_toNat_eq
  rw [BitVec.toNat_ofNat, h, Nat.mod_eq_of_lt (by omega)]

/-- Two words with the same OPC, RSV and DATA are the same word. -/
theorem word_eq_of_fields {v w : Word} (ho : opcOf v = opcOf w) (hr : rsvOf v = rsvOf w)
    (hd : dataOf v = dataOf w) : v = w := by
  have h1 := congrArg BitVec.toNat ho
  have h2 := congrArg BitVec.toNat hr
  have h3 := congrArg BitVec.toNat hd
  rw [opcOf_toNat, opcOf_toNat] at h1
  rw [rsvOf_toNat, rsvOf_toNat] at h2
  rw [dataOf_toNat, dataOf_toNat] at h3
  apply BitVec.eq_of_toNat_eq
  omega

end Sys2Proof
end

