-- ==== Sys2Proof/Laws/State.lean ====
section
/-!
SUPPORT. What each named update of Machine/Ops.lean and Machine/Port.lean leaves in each field of the state.
-/

namespace Sys2Proof.Machine

@[simp] theorem writeCrc_crc (c : Word) (s : State) : (writeCrc c s).crc = c := rfl
@[simp] theorem writeCrc_txf (c : Word) (s : State) : (writeCrc c s).txf = s.txf := rfl
@[simp] theorem writeCrc_rxb (c : Word) (s : State) : (writeCrc c s).rxb = s.rxb := rfl
@[simp] theorem writeCrc_rxlen (c : Word) (s : State) : (writeCrc c s).rxlen = s.rxlen := rfl
@[simp] theorem writeCrc_res (c : Word) (s : State) : (writeCrc c s).res = s.res := rfl
@[simp] theorem writeCrc_ill (c : Word) (s : State) : (writeCrc c s).ill = s.ill := rfl
@[simp] theorem writeCrc_port (c : Word) (s : State) : (writeCrc c s).port = s.port := rfl
@[simp] theorem writeCrc_freeIndex (c : Word) (s : State) : (writeCrc c s).freeIndex = s.freeIndex := rfl

@[simp] theorem writeFrame_crc (f : Vector Byte 8) (s : State) : (writeFrame f s).crc = s.crc := rfl
@[simp] theorem writeFrame_txf (f : Vector Byte 8) (s : State) : (writeFrame f s).txf = f := rfl
@[simp] theorem writeFrame_rxb (f : Vector Byte 8) (s : State) : (writeFrame f s).rxb = s.rxb := rfl
@[simp] theorem writeFrame_rxlen (f : Vector Byte 8) (s : State) : (writeFrame f s).rxlen = s.rxlen := rfl
@[simp] theorem writeFrame_res (f : Vector Byte 8) (s : State) : (writeFrame f s).res = s.res := rfl
@[simp] theorem writeFrame_ill (f : Vector Byte 8) (s : State) : (writeFrame f s).ill = s.ill := rfl
@[simp] theorem writeFrame_port (f : Vector Byte 8) (s : State) : (writeFrame f s).port = s.port := rfl
@[simp] theorem writeFrame_freeIndex (f : Vector Byte 8) (s : State) : (writeFrame f s).freeIndex = s.freeIndex := rfl

@[simp] theorem clearCount_crc (s : State) : (clearCount s).crc = s.crc := rfl
@[simp] theorem clearCount_txf (s : State) : (clearCount s).txf = s.txf := rfl
@[simp] theorem clearCount_rxb (s : State) : (clearCount s).rxb = s.rxb := rfl
@[simp] theorem clearCount_rxlen (s : State) : (clearCount s).rxlen = 0 := rfl
@[simp] theorem clearCount_res (s : State) : (clearCount s).res = s.res := rfl
@[simp] theorem clearCount_ill (s : State) : (clearCount s).ill = s.ill := rfl
@[simp] theorem clearCount_port (s : State) : (clearCount s).port = s.port := rfl
@[simp] theorem clearCount_freeIndex (s : State) : (clearCount s).freeIndex = s.freeIndex := rfl

@[simp] theorem receiveByte_crc (m : Count) (b : Byte) (s : State) : (receiveByte m b s).crc = s.crc := rfl
@[simp] theorem receiveByte_txf (m : Count) (b : Byte) (s : State) : (receiveByte m b s).txf = s.txf := rfl
@[simp] theorem receiveByte_rxb (m : Count) (b : Byte) (s : State) : (receiveByte m b s).rxb = storeByte s.rxlen b s.rxb := rfl
@[simp] theorem receiveByte_rxlen (m : Count) (b : Byte) (s : State) : (receiveByte m b s).rxlen = countByte m s.rxlen := rfl
@[simp] theorem receiveByte_res (m : Count) (b : Byte) (s : State) : (receiveByte m b s).res = s.res := rfl
@[simp] theorem receiveByte_ill (m : Count) (b : Byte) (s : State) : (receiveByte m b s).ill = s.ill := rfl
@[simp] theorem receiveByte_port (m : Count) (b : Byte) (s : State) : (receiveByte m b s).port = s.port := rfl
@[simp] theorem receiveByte_freeIndex (m : Count) (b : Byte) (s : State) : (receiveByte m b s).freeIndex = s.freeIndex := rfl

@[simp] theorem writeResults_crc (r : Results) (s : State) : (writeResults r s).crc = s.crc := rfl
@[simp] theorem writeResults_txf (r : Results) (s : State) : (writeResults r s).txf = s.txf := rfl
@[simp] theorem writeResults_rxb (r : Results) (s : State) : (writeResults r s).rxb = s.rxb := rfl
@[simp] theorem writeResults_rxlen (r : Results) (s : State) : (writeResults r s).rxlen = s.rxlen := rfl
@[simp] theorem writeResults_res (r : Results) (s : State) : (writeResults r s).res = r := rfl
@[simp] theorem writeResults_ill (r : Results) (s : State) : (writeResults r s).ill = s.ill := rfl
@[simp] theorem writeResults_port (r : Results) (s : State) : (writeResults r s).port = s.port := rfl
@[simp] theorem writeResults_freeIndex (r : Results) (s : State) : (writeResults r s).freeIndex = s.freeIndex := rfl

@[simp] theorem raiseShortResponse_crc (s : State) : (raiseShortResponse s).crc = s.crc := rfl
@[simp] theorem raiseShortResponse_txf (s : State) : (raiseShortResponse s).txf = s.txf := rfl
@[simp] theorem raiseShortResponse_rxb (s : State) : (raiseShortResponse s).rxb = s.rxb := rfl
@[simp] theorem raiseShortResponse_rxlen (s : State) : (raiseShortResponse s).rxlen = s.rxlen := rfl
@[simp] theorem raiseShortResponse_res (s : State) : (raiseShortResponse s).res = shortResults := rfl
@[simp] theorem raiseShortResponse_ill (s : State) : (raiseShortResponse s).ill = s.ill := rfl
@[simp] theorem raiseShortResponse_port (s : State) : (raiseShortResponse s).port = s.port := rfl
@[simp] theorem raiseShortResponse_freeIndex (s : State) : (raiseShortResponse s).freeIndex = s.freeIndex := rfl

@[simp] theorem raiseIllegalOperation_crc (s : State) : (raiseIllegalOperation s).crc = s.crc := rfl
@[simp] theorem raiseIllegalOperation_txf (s : State) : (raiseIllegalOperation s).txf = s.txf := rfl
@[simp] theorem raiseIllegalOperation_rxb (s : State) : (raiseIllegalOperation s).rxb = s.rxb := rfl
@[simp] theorem raiseIllegalOperation_rxlen (s : State) : (raiseIllegalOperation s).rxlen = s.rxlen := rfl
@[simp] theorem raiseIllegalOperation_res (s : State) : (raiseIllegalOperation s).res = s.res := rfl
@[simp] theorem raiseIllegalOperation_ill (s : State) : (raiseIllegalOperation s).ill = true := rfl
@[simp] theorem raiseIllegalOperation_port (s : State) : (raiseIllegalOperation s).port = s.port := rfl
@[simp] theorem raiseIllegalOperation_freeIndex (s : State) : (raiseIllegalOperation s).freeIndex = s.freeIndex := rfl

@[simp] theorem resetBlock_crc (s : State) : (resetBlock s).crc = 0xFFFF := rfl
@[simp] theorem resetBlock_txf (s : State) : (resetBlock s).txf = Vector.replicate 8 0 := rfl
@[simp] theorem resetBlock_rxb (s : State) : (resetBlock s).rxb = Config.rxbAfterReset s.freeIndex s.rxb := rfl
@[simp] theorem resetBlock_rxlen (s : State) : (resetBlock s).rxlen = 0 := rfl
@[simp] theorem resetBlock_res (s : State) : (resetBlock s).res = Results.reset := rfl
@[simp] theorem resetBlock_ill (s : State) : (resetBlock s).ill = false := rfl
@[simp] theorem resetBlock_port (s : State) : (resetBlock s).port = s.port := rfl
@[simp] theorem resetBlock_freeIndex (s : State) : (resetBlock s).freeIndex = s.freeIndex + 1 := rfl

@[simp] theorem presenting_crc (es : List Input) (s : State) : (presenting es s).crc = s.crc := rfl
@[simp] theorem presenting_txf (es : List Input) (s : State) : (presenting es s).txf = s.txf := rfl
@[simp] theorem presenting_rxb (es : List Input) (s : State) : (presenting es s).rxb = s.rxb := rfl
@[simp] theorem presenting_rxlen (es : List Input) (s : State) : (presenting es s).rxlen = s.rxlen := rfl
@[simp] theorem presenting_res (es : List Input) (s : State) : (presenting es s).res = s.res := rfl
@[simp] theorem presenting_ill (es : List Input) (s : State) : (presenting es s).ill = s.ill := rfl
@[simp] theorem presenting_port (es : List Input) (s : State) : (presenting es s).port = es ++ s.port := rfl
@[simp] theorem presenting_freeIndex (es : List Input) (s : State) : (presenting es s).freeIndex = s.freeIndex := rfl

end Sys2Proof.Machine
end

