-- ==== Sys2Proof/Laws/Ops.lean ====
section
/-!
SUPPORT. What the shared operations can do, said once: the receive operation's two parts, and the CRC and byte-order
functions in the form proofs use.
-/

namespace Sys2Proof.Machine

theorem storeOffset_of_lt {n : Count} (h : n.toNat < 13) : storeOffset n = some ⟨n.toNat, h⟩ := by
  simp [storeOffset, h]

theorem storeOffset_of_ge {n : Count} (h : 13 ≤ n.toNat) : storeOffset n = none := by
  simp [storeOffset, Nat.not_lt.mpr h]

theorem storeByte_of_lt {n : Count} (h : n.toNat < 13) (b : Byte) (v : Vector Byte 13) :
    storeByte n b v = v.set n.toNat b h := by
  simp [storeByte, storeOffset_of_lt h]

theorem storeByte_of_ge {n : Count} (h : 13 ≤ n.toNat) (b : Byte) (v : Vector Byte 13) :
    storeByte n b v = v := by
  simp [storeByte, storeOffset_of_ge h]

/-- Each byte of RXB after a store: the stored byte at the store offset, the old one elsewhere. -/
theorem storeByte_get (n : Count) (b : Byte) (v : Vector Byte 13) (k : Fin 13) :
    (storeByte n b v)[k] = if n.toNat = k.val then b else v[k] := by
  by_cases h : n.toNat < 13
  · simp [storeByte_of_lt h, Vector.getElem_set]
  · have hk : n.toNat ≠ k.val := by omega
    simp [storeByte_of_ge (Nat.not_lt.mp h), hk]

theorem countByte_toNat (m n : Count) :
    (countByte m n).toNat = if n.toNat < m.toNat then n.toNat + 1 else n.toNat := by
  unfold countByte
  split
  · have := m.isLt
    have h1 : (1 : Count).toNat = 1 := rfl
    rw [BitVec.toNat_add, h1]
    omega
  · rfl

theorem countByte_le {m n : Count} (h : n.toNat ≤ m.toNat) : (countByte m n).toNat ≤ m.toNat := by
  rw [countByte_toNat]; split <;> omega

@[simp] theorem crcFold_nil (c : Word) : crcFold c [] = c := rfl

@[simp] theorem crcFold_cons (c : Word) (b : Byte) (bs : List Byte) :
    crcFold c (b :: bs) = crcFold (crcUpdate c b) bs := rfl

theorem crc16_eq (data : List Byte) : crc16 data = crcFold 0xFFFF data := rfl

end Sys2Proof.Machine
end

