-- ==== Sys2Proof/Laws/PerInstr.lean ====
section
/-!
SUPPORT. One lemma per operation for the family EncodedWordIsLegal: the word the encoder gives meets R76's three
conditions of legality (WellFormed.lean), with DATA the operand and RSV zero.
-/

namespace Sys2Proof.Laws.EncodedWordIsLegal

/-- The operation's word is legal and has RSV = 0b0000. -/
def Statement (i : Instr) : Prop := Word.wellFormed (encode i) = true ∧ rsvOf (encode i) = 0

/-- A word of an operation that takes DATA as operand is legal at every operand. -/
theorem of_operand {opc : BitVec 4} (h : opc.toNat < 7) (hn : [0, 1, 4, 6].contains opc.toNat = false) (b : Byte) :
    Word.wellFormed (wordOf opc b) = true ∧ rsvOf (wordOf opc b) = 0 := by
  have hb := b.isLt
  have h1 : (opc.toNat * 4096 + b.toNat) / 4096 = opc.toNat := by omega
  have h2 : (opc.toNat * 4096 + b.toNat) / 256 % 16 = 0 := by omega
  refine ⟨?_, rsvOf_wordOf opc b⟩
  simp only [Word.wellFormed, Word.opcAssigned, Word.rsvZero, Word.dataAllowed, wordOf_toNat, h1, h2, hn, h,
    decide_true, Bool.not_false, Bool.true_or, Bool.and_self]

theorem nop : Statement .nop := ⟨by decide, by decide⟩

theorem crcInit : Statement .crcInit := ⟨by decide, by decide⟩

theorem crcByte (b : Byte) : Statement (.crcByte b) := of_operand (opc := 0x2) (by decide) (by decide) b

theorem build (code : Byte) : Statement (.build code) := of_operand (opc := 0x3) (by decide) (by decide) code

theorem rxClear : Statement .rxClear := ⟨by decide, by decide⟩

theorem rxByte (b : Byte) : Statement (.rxByte b) := of_operand (opc := 0x5) (by decide) (by decide) b

theorem parse : Statement .parse := ⟨by decide, by decide⟩

end Sys2Proof.Laws.EncodedWordIsLegal
end

