-- ==== Sys2Proof/Laws/Step.lean ====
section
/-!
SUPPORT. Said once, what an operation, an input, a step and a run do: each answers a next state, given by a plain
function of the state, so that later proofs reason about folds and never unfold the machine.
-/

namespace Sys2Proof.Machine

/-- The state an operation leaves. -/
def effect : Instr → State → State
  | .nop, s => s
  | .crcInit, s => writeCrc crcInit s
  | .crcByte b, s => writeCrc (crcUpdate s.crc b) s
  | .build code, s => writeFrame (buildCommand code) s
  | .rxClear, s => clearCount s
  | .rxByte b, s => receiveByte Config.rxMax b s
  | .parse, s =>
    if s.rxlen.toNat < nMin then raiseShortResponse s else writeResults (okResults s.rxlen s.rxb) s

theorem exec_eq (i : Instr) (s : State) : exec i s = .next (effect i s) := by
  cases i <;> try rfl
  simp only [exec, execParse, effect]
  split <;> rfl

/-- The state an input leaves. -/
def applyInput (e : Input) (s : State) : State :=
  match e with
  | .word w =>
    match decode w with
    | .instr i => effect i s
    | .illegal _ => raiseIllegalOperation s
  | .reset => resetBlock s
  | .resetWithWord _ => resetBlock s

theorem acceptInput_eq (e : Input) (s : State) : acceptInput e s = .next (applyInput e s) := by
  cases e with
  | word w =>
    simp only [acceptInput, acceptWord, applyInput]
    cases decode w with
    | instr i => exact exec_eq i s
    | illegal why => rfl
  | reset => rfl
  | resetWithWord w => rfl

@[simp] theorem effect_port (i : Instr) (s : State) : (effect i s).port = s.port := by
  cases i <;> simp only [effect] <;> (try split) <;> rfl

@[simp] theorem applyInput_port (e : Input) (s : State) : (applyInput e s).port = s.port := by
  cases e with
  | word w =>
    simp only [applyInput]
    cases decode w with
    | instr i => exact effect_port i s
    | illegal why => rfl
  | reset => rfl
  | resetWithWord w => rfl

/-- An operation neither reads nor writes the waiting inputs. -/
theorem effect_with_port (i : Instr) (s : State) (p : List Input) :
    effect i { s with port := p } = { effect i s with port := p } := by
  cases i <;> simp only [effect] <;> (try split) <;> rfl

/-- An input neither reads nor writes the inputs waiting behind it. -/
theorem applyInput_with_port (e : Input) (s : State) (p : List Input) :
    applyInput e { s with port := p } = { applyInput e s with port := p } := by
  cases e with
  | word w =>
    simp only [applyInput]
    cases decode w with
    | instr i => exact effect_with_port i s p
    | illegal why => rfl
  | reset => rfl
  | resetWithWord w => rfl

theorem step_nil {s : State} (h : s.port = []) : step s = .next s := by
  simp [step, portStep, h]

theorem step_cons {s : State} {e : Input} {rest : List Input} (h : s.port = e :: rest) :
    step s = .next { applyInput e s with port := rest } := by
  simp only [step, portStep, h, acceptInput_eq, applyInput_with_port]

/-- Every step: nothing presented and the state held, or the oldest input applied and taken off the port. -/
theorem step_cases {s t : State} (h : step s = .next t) :
    (s.port = [] ∧ t = s) ∨
      ∃ e rest, s.port = e :: rest ∧ t = { applyInput e s with port := rest } := by
  cases hp : s.port with
  | nil => rw [step_nil hp] at h; cases h; exact .inl ⟨rfl, rfl⟩
  | cons e rest => rw [step_cons hp] at h; cases h; exact .inr ⟨e, rest, rfl, rfl⟩

/-- The state a sequence of inputs leaves. -/
def applyAll (es : List Input) (s : State) : State := es.foldl (fun u e => applyInput e u) s

@[simp] theorem applyAll_nil (s : State) : applyAll [] s = s := rfl

@[simp] theorem applyAll_cons (e : Input) (es : List Input) (s : State) :
    applyAll (e :: es) s = applyAll es (applyInput e s) := rfl

theorem applyAll_append (es fs : List Input) (s : State) :
    applyAll (es ++ fs) s = applyAll fs (applyAll es s) :=
  List.foldl_append

@[simp] theorem applyAll_port (es : List Input) (s : State) : (applyAll es s).port = s.port := by
  induction es generalizing s with
  | nil => rfl
  | cons e es ih => rw [applyAll_cons, ih, applyInput_port]

theorem applyAll_with_port (es : List Input) (s : State) (p : List Input) :
    applyAll es { s with port := p } = { applyAll es s with port := p } := by
  induction es generalizing s with
  | nil => rfl
  | cons e es ih => rw [applyAll_cons, applyInput_with_port, ih, applyAll_cons]

/-- `es.length` steps consume exactly the inputs `es` at the head of the port. -/
theorem core_run_eq (es : List Input) (s : State) (p : List Input) (h : s.port = es ++ p) :
    Sys2Proof.core.run es.length s = .next { applyAll es s with port := p } := by
  induction es generalizing s with
  | nil =>
    have hs : s = { s with port := p } := by rw [← show s.port = p from h]
    exact congrArg Host.Outcome.next hs
  | cons e es ih =>
    have hs : Sys2Proof.core.step s = .next { applyInput e s with port := es ++ p } := step_cons h
    rw [List.length_cons]
    simp only [Host.Core.run, hs]
    refine (ih _ rfl).trans ?_
    rw [applyAll_with_port, applyAll_cons]

/-- A run answers the fold of its inputs, and leaves the inputs behind them where they were. -/
theorem run_eq (es : List Input) (s : State) : run es s = .next (applyAll es s) := by
  have hs : (applyAll es s) = { applyAll es s with port := s.port } := by rw [← applyAll_port es s]
  rw [run, core_run_eq es (presenting es s) s.port rfl]
  rw [hs]
  exact congrArg (fun u : State => Host.Outcome.next { u with port := s.port })
    (applyAll_with_port es s (es ++ s.port))

theorem applyInput_word_instr {w : Word} {i : Instr} (h : decode w = .instr i) (s : State) :
    applyInput (.word w) s = effect i s := by
  simp [applyInput, h]

theorem applyInput_word_illegal {w : Word} {why : IllegalWord} (h : decode w = .illegal why) (s : State) :
    applyInput (.word w) s = raiseIllegalOperation s := by
  simp [applyInput, h]

end Sys2Proof.Machine
end

