-- ==== Sys2Proof/Tests/Slice0.lean ====
section
/-!
SUPPORT. Tests: expected results are the vectors of spec/95_test_vectors.md (its sections are named at each test),
written words are R75's patterns, and a witness for each statement that has hypotheses.
-/

namespace Sys2Proof.Tests

open Sys2Proof Sys2Proof.Machine

/-- The next state of an outcome, if there is one. -/
def nextOf (o : Host.Outcome State Fault Refusal) : Option State :=
  match o with
  | .next s => some s
  | .fault _ => none
  | .refused _ => none

/-- A field of the next state, if there is one. -/
def nextField {α : Type} (f : State → α) (o : Host.Outcome State Fault Refusal) : Option α := (nextOf o).map f

/-- The next state, or the reset state where there is none. -/
def effectOf (o : Host.Outcome State Fault Refusal) : State := (nextOf o).getD State.reset

/-- The reset state with RXLEN set. -/
def atCount (n : Nat) : State := { State.reset with rxlen := BitVec.ofNat 11 n }

/-- E4's response (tare bytes of E5) stored in RXB, with RXLEN set. -/
def received (n : Nat) : State :=
  { atCount n with rxb := #v[0xAA, 0x39, 0x30, 0, 0, 0x02, 0x01, 0, 0x01, 0x0C, 0xFE, 0xFF, 0xFF] }

/-! ## Well-formedness: one ill-formed term for each check -/

/-- R76 (a): OPC 0x7. -/
theorem test_illFormed_opc : Word.opcAssigned 0x7000 = false ∧ Word.wellFormed 0x7000 = false := by decide

/-- R76 (b): RSV 0x1. -/
theorem test_illFormed_rsv : Word.rsvZero 0x2100 = false ∧ Word.wellFormed 0x2100 = false := by decide

/-- R76 (c): DATA 0x01 on PARSE; DATA is free on RX_BYTE. -/
theorem test_illFormed_data :
    Word.dataAllowed 0x6001 = false ∧ Word.wellFormed 0x6001 = false ∧ Word.wellFormed 0x50FF = true := by decide

/-- R80: an operand of 256, a `.word` of 17 bits, a pseudo-operation with one operand too large. -/
theorem test_illFormed_assembly :
    Asm.wellFormed (.build 256) = false ∧ Asm.wellFormed (.crcByte 256) = false ∧
    Asm.wellFormed (.rxByte 256) = false ∧ Asm.wellFormed (.word 65536) = false ∧
    Asm.wellFormed (.crc [0, 256]) = false ∧ Asm.wellFormed (.recv [256]) = false ∧
    Asm.wellFormed (.decode [1, 2, 256]) = false := by decide

/-! ## Decoding: words written out from R75's patterns, and section 2.9 -/

theorem test_decode_nop : decode 0b0000000000000000 = .instr .nop := by decide
theorem test_decode_crcInit : decode 0b0001000000000000 = .instr .crcInit := by decide
theorem test_decode_crcByte : decode 0b0010000011111111 = .instr (.crcByte 0xFF) := by decide
theorem test_decode_build : decode 0b0011000000100011 = .instr (.build 0x23) := by decide
theorem test_decode_rxClear : decode 0b0100000000000000 = .instr .rxClear := by decide
theorem test_decode_rxByte : decode 0b0101000000000000 = .instr (.rxByte 0x00) := by decide
theorem test_decode_parse : decode 0b0110000000000000 = .instr .parse := by decide

/-- Section 2.9's illegal words, with the condition of R76 each meets. -/
theorem test_decode_illegal :
    [0x0001, 0x10FF, 0x4080, 0x6001].map decode = List.replicate 4 (.illegal .dataNotZero) ∧
    [0x0100, 0x1100, 0x2100, 0x3F23, 0x5800, 0xA5A5].map decode = List.replicate 6 (.illegal .reservedBits) ∧
    [0x7000, 0x8000, 0xF0FF].map decode = List.replicate 3 (.illegal .unassignedOpc) := by decide

/-- The host's view: 16 bits numbered as the opcode table numbers them. -/
theorem test_decodeTableWord : decodeTableWord 16 0x3023 = some (.build 0x23) ∧ decodeTableWord 16 0x3F23 = none := by
  decide

/-- A placed word is the first operation after reset (E2). -/
theorem test_withFetchWord :
    nextField (fun t => (readPort 1 t, readPort 2 t, t.port)) (step (State.reset.withFetchWord 16 0x3023)) =
      some (0x01CE55F8, 0xF5F12300, []) := by decide

/-! ## The operations -/

/-- R180. -/
theorem test_nop : nextOf (exec .nop (received 5)) = some (received 5) := by decide

/-- R124's worked example. -/
theorem test_crcInit : nextField State.crc (exec .crcInit { State.reset with crc := 0x1234 }) = some 0xFFFF := by
  decide

/-- Section 2.1. -/
theorem test_crcUpdate :
    [crcUpdate 0xFFFF 0x23, crcUpdate 0xFFFF 0x00, crcUpdate 0xFFFF 0xFF, crcUpdate 0x0000 0x00,
      crcUpdate 0x0000 0x01, crcUpdate 0x8000 0x00, crcUpdate 0x1234 0x56, crcUpdate 0xF5F1 0x23] =
    [0xF5F1, 0xE1F0, 0xFF00, 0x0000, 0x1021, 0x9188, 0x3C40, 0x5ABB] := by decide

/-- Section 2.3: the register before and after each byte of "123456789" (check value 0x29B1). -/
theorem test_crc16_check_value :
    List.zipWith crcUpdate [0xFFFF, 0xC782, 0x3DBA, 0x5BCE, 0x5349, 0x4560, 0x2EF4, 0x7718, 0xA12B]
        [0x31, 0x32, 0x33, 0x34, 0x35, 0x36, 0x37, 0x38, 0x39] =
      [0xC782, 0x3DBA, 0x5BCE, 0x5349, 0x4560, 0x2EF4, 0x7718, 0xA12B, 0x29B1] := by decide

/-- Section 2.3: the check value of nine bytes in order, two bytes in order, and the empty sequence. -/
theorem test_crc16 :
    crc16 [0x31, 0x32, 0x33, 0x34, 0x35, 0x36, 0x37, 0x38, 0x39] = 0x29B1 ∧ crc16 [0x12, 0x34] = 0x0EC9 ∧
    crc16 [] = 0xFFFF := by decide +kernel

/-- R125's worked example. -/
theorem test_crcByte : nextField State.crc (exec (.crcByte 0x23) State.reset) = some 0xF5F1 := by decide

/-- Section 2.4, codes 0x80 and 0xF8. -/
theorem test_build :
    nextField State.txf (exec (.build 0x80) State.reset) =
      some #v[0xF8, 0x55, 0xCE, 0x01, 0x00, 0x80, 0x78, 0x70] ∧
    nextField (readPort 2) (exec (.build 0xF8) State.reset) = some 0x8FE7F800 := by decide

/-- Section 2.8. -/
theorem test_rxClear : nextField (readPort 3) (exec .rxClear (atCount 17)) = some 0 := by decide

/-- Section 2.8: RXLEN 12 stores and counts. -/
theorem test_rxByte_last_stored :
    nextField (fun t => (t.rxlen, t.rxb[12])) (exec (.rxByte 0x5A) (atCount 12)) = some (13, 0x5A) := by decide

/-- Section 2.8: RXLEN 13, 16, 1023 count only, 1024 does nothing. -/
theorem test_rxByte_counted_only :
    [13, 16, 1023, 1024].map (fun n => nextField (fun t => (t.rxlen, t.rxb)) (exec (.rxByte 0x5A) (atCount n))) =
      [14, 17, 1024, 1024].map (fun n => some (n, State.reset.rxb)) := by decide

/-- Section 2.5: STATUS, WEIGHT, DIVISION and TARE at 12, 13, 16, 17 and 1024 received bytes. -/
theorem test_parse_by_length :
    [12, 13, 16, 17, 1024].map
        (fun n => nextField (fun t => [4, 5, 6, 7].map (fun r => readPort r t)) (exec .parse (received n))) =
      [some [0x02, 0, 0, 0], some [0x15, 0x3039, 0x02, 0], some [0x15, 0x3039, 0x02, 0],
       some [0x35, 0x3039, 0x02, 0xFFFFFE0C], some [0x35, 0x3039, 0x02, 0xFFFFFE0C]] := by decide

/-- Section 2.6: only 0x01 decodes a flag to true. -/
theorem test_flags : [0x00, 0x01, 0x02, 0x10, 0x80, 0xFE, 0xFF].map flagOf =
    [false, true, false, false, false, false, false] := by decide

/-- E4, E5 and E3 of the function: 13 bytes, 17 bytes with tare -500, 12 bytes. -/
theorem test_parseResponse :
    parseResponse [0xAA, 0x39, 0x30, 0, 0, 2, 1, 0, 1, 0xDE, 0xAD, 0xBE, 0xEF] =
      .reading ⟨12345, 2, true, false, true, 0, false⟩ ∧
    parseResponse [0xAA, 0x39, 0x30, 0, 0, 2, 1, 0, 1, 0x0C, 0xFE, 0xFF, 0xFF, 0, 0, 0, 0] =
      .reading ⟨12345, 2, true, false, true, -500, true⟩ ∧
    parseResponse (List.replicate 12 0) = .failed .shortResponse := by decide

/-- Section 2.7: the extremes of the signed field. -/
theorem test_signed :
    s32 (le32 0x00 0x00 0x00 0x80) = -2147483648 ∧ s32 (le32 0xFF 0xFF 0xFF 0x7F) = 2147483647 ∧
    s32 (le32 0xC7 0xCF 0xFF 0xFF) = -12345 := by decide

/-! ## Inputs, reset and the assembler -/

/-- R204: an illegal word sets ILL and nothing else. -/
theorem test_illegal_word :
    nextOf (step { received 5 with port := [.word 0x7000] }) = some { received 5 with ill := true } := by decide

/-- Section 2.10: a reset presented with an illegal word leaves the reset state's ILL, CRC and STATUS. -/
theorem test_reset_wins :
    nextField (fun t => (t.ill, t.crc, readPort 4 t, t.rxlen))
        (step { received 5 with ill := true, crc := 0x1234, port := [.resetWithWord 0x7000] }) =
      some (false, 0xFFFF, 0, 0) := by decide

/-- R80's examples, R81's GET_WEIGHT with a comment, and `.word`. -/
theorem test_assemble :
    assembleLine "CRC_BYTE 0x23" = some [0x2023] ∧ assembleLine "BUILD 35" = some [0x3023] ∧
    assembleLine "GET_WEIGHT ; = BUILD 0x23" = some [0x3023] ∧ assembleLine ".word 0x7000 ; illegal" = some [0x7000] := by
  decide

/-- R81: RECV with two bytes; CRC without any; R80: an operand of 256 is an assembly error. -/
theorem test_assemble_pseudo :
    assembleLine "RECV 0xAA, 57" = some [0x4000, 0x50AA, 0x5039] ∧ assembleLine "CRC" = some [0x1000] ∧
    assembleLine "BUILD 256" = none := by decide

/-- P2's three lines, a line that is a comment, and a text with an error. -/
theorem test_assemble_lines :
    assembleLines ["GET_WEIGHT ; = BUILD 0x23", "; then the CRC", "CRC_INIT", "CRC_BYTE 0x23"] =
      some [0x3023, 0x1000, 0x2023] ∧ assembleLines ["NOP", "HALT"] = none := by decide

/-! ## Witnesses: a state and operands that meet each statement's hypotheses -/

/-- DecodeThenEncode. -/
theorem test_witness_decodes : decode 0x2023 = .instr (.crcByte 0x23) := by decide

/-- The clauses on an illegal word (IllegalWordsAreThese, IllegalWordSetsStickyIll, WriteMatrix). -/
theorem test_witness_illegal : decode 0xFFFF = .illegal .reservedBits := by decide

/-- The clauses 'every other word of this OPC is illegal', at a least or a greatest such word. -/
theorem test_witness_other_words :
    (opcOf 0x0001 = 0x0 ∧ (0x0001 : Word) ≠ 0x0000) ∧ (opcOf 0x1FFF = 0x1 ∧ (0x1FFF : Word) ≠ 0x1000) ∧
    (opcOf 0x4001 = 0x4 ∧ (0x4001 : Word) ≠ 0x4000) ∧ (opcOf 0x6FFF = 0x6 ∧ (0x6FFF : Word) ≠ 0x6000) ∧
    (opcOf 0x3F23 = 0x3 ∧ rsvOf 0x3F23 ≠ 0) := by decide

/-- StepRunsTheDecodedOperation, its five clauses. -/
theorem test_witness_step :
    (presenting [.word 0x6000] State.reset).port = [.word 0x6000] ∧ decode 0x6000 = .instr .parse ∧
    (presenting [.word 0x0100] State.reset).port = [.word 0x0100] ∧ decode 0x0100 = .illegal .reservedBits ∧
    (presenting [.reset] State.reset).port = [.reset] ∧
    (presenting [.resetWithWord 0x7000] State.reset).port = [.resetWithWord 0x7000] ∧ State.reset.port = [] := by
  decide

/-- The clauses 'exec answers next t' for BUILD and RX_CLEAR (CrcByteUpdatesTheRegister, BuildWritesTheFrame,
RxClearZeroesTheCount). -/
theorem test_witness_exec :
    exec (.build 0x23) State.reset = .next (writeFrame (buildCommand 0x23) State.reset) ∧
    exec .rxClear (atCount 17) = .next (clearCount (atCount 17)) := ⟨rfl, rfl⟩

/-- RxByteStoresAndCounts, each clause at the ends of its range. -/
theorem test_witness_rxByte :
    (atCount 0).rxlen.toNat < 13 ∧ (atCount 12).rxlen.toNat < 13 ∧
    (13 ≤ (atCount 13).rxlen.toNat ∧ (atCount 13).rxlen.toNat < Config.rxMax.toNat) ∧
    (13 ≤ (atCount 1023).rxlen.toNat ∧ (atCount 1023).rxlen.toNat < Config.rxMax.toNat) ∧
    Config.rxMax.toNat ≤ (atCount 1024).rxlen.toNat := by decide

/-- RxByteStoresOnlyAtItsOffset: the last offset stored to, another one not, and none at 13. -/
theorem test_witness_storeOffset :
    storeOffset (atCount 12).rxlen = some 12 ∧ storeOffset (atCount 12).rxlen ≠ some 11 ∧
    storeOffset (atCount 13).rxlen = none ∧
    exec (.rxByte 0x5A) (atCount 12) = .next (receiveByte Config.rxMax 0x5A (atCount 12)) :=
  ⟨by decide, by decide, by decide, rfl⟩

/-- ParseDecodesOrReportsShort, each clause at the end of its range. -/
theorem test_witness_parse : (received 12).rxlen.toNat < 13 ∧ 13 ≤ (received 13).rxlen.toNat := by decide

/-- WriteMatrix: each element does change under the operation of its row. -/
theorem test_witness_writeMatrix :
    (effectOf (exec (.crcByte 0) State.reset)).crc ≠ State.reset.crc ∧
    (effectOf (exec .rxClear (atCount 17))).rxlen ≠ (atCount 17).rxlen ∧
    (effectOf (exec (.build 0) State.reset)).txf ≠ State.reset.txf ∧
    (effectOf (exec (.rxByte 1) State.reset)).rxb ≠ State.reset.rxb ∧
    (effectOf (exec (.rxByte 1) State.reset)).rxlen ≠ State.reset.rxlen ∧
    (effectOf (exec .parse State.reset)).res ≠ State.reset.res := by decide

/-- The clauses on a reset event (WriteMatrix, IllegalWordSetsStickyIll). -/
theorem test_witness_reset_event :
    isReset .reset = true ∧ acceptInput .reset State.reset = .next (resetBlock State.reset) := ⟨rfl, rfl⟩

/-- FunctionsInterleaveFreely: an operation outside each function, and two of different functions. -/
theorem test_witness_functions :
    functionOf .parse ≠ .crc ∧ functionOf .parse ≠ .frame ∧ functionOf (.crcByte 1) ≠ .parser ∧
    functionOf (.crcByte 1) ≠ functionOf .parse ∧
    exec (.crcByte 1) State.reset = .next (writeCrc (crcUpdate 0xFFFF 1) State.reset) ∧
    exec .parse State.reset = .next (raiseShortResponse State.reset) :=
  ⟨by decide, by decide, by decide, by decide, rfl, rfl⟩

/-- IdempotentOperations, its second clause one below RX_MAX. -/
theorem test_witness_idempotent :
    exec .parse State.reset = .next (raiseShortResponse State.reset) ∧
    (atCount 1023).rxlen.toNat < Config.rxMax.toNat ∧
    exec (.rxByte 0) (atCount 1023) = .next (receiveByte Config.rxMax 0 (atCount 1023)) := ⟨rfl, by decide, rfl⟩

/-- ResetEventWins and OnlyResetClearsIllAndStatus. -/
theorem test_witness_reset :
    isReset (.resetWithWord 0x7000) = true ∧ isReset (.word 0x7000) = false ∧ performed (.word 0x7000) = none ∧
    acceptInput (.word 0x7000) State.reset = .next { State.reset with ill := true } :=
  ⟨rfl, rfl, by decide, rfl⟩

/-- OnlyResetClearsIllAndStatus, its second clause: an IDLE status after a word that is no reset. -/
theorem test_witness_idle :
    acceptInput (.word 0x0000) State.reset = .next State.reset ∧ isReset (.word 0x0000) = false ∧ State.reset.res.status = 0b00 := ⟨rfl, rfl, rfl⟩

/-- GoodEndMeansNoIllegalWord. -/
theorem test_witness_goodEnd :
    run [.word 0x4000, .word 0x6000] State.reset = .next (raiseShortResponse State.reset) ∧
    (raiseShortResponse State.reset).goodFinal ∧
    ∀ e ∈ [Input.word 0x4000, Input.word 0x6000], isReset e = false := ⟨rfl, rfl, by decide⟩

/-- EveryStepKeepsTheInvariant, in a state with a built frame, at RX_MAX, with an OK result. -/
theorem test_witness_invariant :
    State.Inv (presenting [.word 0x4000]
      { (received 1024) with txf := buildCommand 0x23, res := okResults 1024 (received 1024).rxb }) ∧
    step (presenting [.word 0x4000]
        { (received 1024) with txf := buildCommand 0x23, res := okResults 1024 (received 1024).rxb }) =
      .next (clearCount { (received 1024) with txf := buildCommand 0x23, res := okResults 1024 (received 1024).rxb }) :=
  ⟨⟨by decide, .inr (.inr ⟨rfl, by decide⟩), .inr ⟨0x23, rfl⟩⟩, rfl⟩

/-- InvariantSeenThroughTheReadPort, with a SHORT result. -/
theorem test_witness_short :
    (raiseShortResponse (received 12)).Inv ∧ (readPort 4 (raiseShortResponse (received 12))).toNat % 4 ≠ 1 :=
  ⟨⟨by decide, .inr (.inl rfl), .inl rfl⟩, by decide⟩

/-- ReadRegisterMap: the reserved selects, first and last. -/
theorem test_witness_reserved_selects : 8 ≤ (0x8 : BitVec 4).toNat ∧ 8 ≤ (0xF : BitVec 4).toNat := by decide

/-- ResponseLengthClasses at 12, 13, 16 and 17 bytes. -/
theorem test_witness_lengths :
    (List.replicate 12 (0 : Byte)).length < 13 ∧
    (13 ≤ (List.replicate 13 (0 : Byte)).length ∧ (List.replicate 16 (0 : Byte)).length < 17) ∧
    17 ≤ (List.replicate 17 (0 : Byte)).length := by decide

/-- UninterpretedBytesChangeNothing: 17 bytes and 18 bytes that differ at offsets 0, 13 to 16 and in length. -/
theorem test_witness_uninterpreted :
    (∀ k < 13, 1 ≤ k → (List.replicate 17 (0 : Byte))[k]? = ((0xFF :: List.replicate 12 0) ++ List.replicate 5 0xFF : List Byte)[k]?) ∧
    (13 ≤ (List.replicate 17 (0 : Byte)).length ↔ 13 ≤ ((0xFF :: List.replicate 12 0) ++ List.replicate 5 0xFF : List Byte).length) ∧
    (17 ≤ (List.replicate 17 (0 : Byte)).length ↔ 17 ≤ ((0xFF :: List.replicate 12 0) ++ List.replicate 5 0xFF : List Byte).length) := by
  decide

/-- SignedValuesSurvive, at the least value, as weight in 13 bytes and as tare in 17. -/
theorem test_witness_signed :
    (∀ k < 4, ([0, 0, 0, 0, 0x80, 0, 0, 0, 0, 0, 0, 0, 0] : List Byte)[1 + k]? = some (byteOf (u32 (-2147483648)) k)) ∧
    (∀ k < 4, ([0, 0, 0, 0, 0, 0, 0, 0, 0, 0, 0, 0, 0x80, 0, 0, 0, 0] : List Byte)[9 + k]? =
      some (byteOf (u32 (-2147483648)) k)) ∧ (-2 ^ 31 : Int) ≤ -2147483648 ∧ (-2147483648 : Int) < 2 ^ 31 := by decide

/-- The runs (CrcRunComputesCrc16, ReceiveRunCountsAndStores, DecodeRunAgreesWithParseResponse,
ResultsHoldUntilTheNextParse): inputs that carry bytes and interleave an illegal word and a BUILD. -/
theorem test_witness_runs :
    (∀ e ∈ [Input.word 0x2012, .word 0x5001, .word 0x7000, .word 0x3023, .word 0x2034],
      isReset e = false ∧ performed e ≠ some .crcInit ∧ performed e ≠ some .rxClear ∧ performed e ≠ some .parse) ∧
    crcBytes [Input.word 0x2012, .word 0x5001, .word 0x7000, .word 0x3023, .word 0x2034] = [0x12, 0x34] ∧
    rxBytes [Input.word 0x2012, .word 0x5001, .word 0x7000, .word 0x3023, .word 0x2034] = [0x01] ∧
    State.reset.rxlen = 0 := by decide

/-- ParseDoesNotDependOnRxMax, at the least RX_MAX and the greatest the counter holds. -/
theorem test_witness_rxMax : 17 ≤ (17 : Count).toNat ∧ 17 ≤ (2047 : Count).toNat ∧ State.reset.rxlen = 0 := by decide

/-- StaleBytesAreNeverObserved: two states with five bytes received that differ in a stale byte, and a step. -/
theorem test_witness_stale :
    State.sameButStale (presenting [.word 0x6000] (received 5))
      (presenting [.word 0x6000] { received 5 with rxb := (received 5).rxb.set 5 0xFF }) ∧
    received 5 ≠ { received 5 with rxb := (received 5).rxb.set 5 0xFF } ∧
    step (presenting [.word 0x6000] (received 5)) = .next (raiseShortResponse (received 5)) :=
  ⟨⟨rfl, by decide⟩, by decide, rfl⟩

/-- AssemblyErrorsAndLegalWords, its last clause. -/
theorem test_witness_assembled : assemble (.recv [255]) = some [0x4000, 0x50FF] := by decide

end Sys2Proof.Tests
end

/-!
PROOFS. What a step does with the oldest input of the port: the five cases of the acceptance rule (R14, R70, R231).
-/

namespace Sys2Proof.Machine

/-- Settles O7: the cases of the oldest input, each by what `step_cons` says of it. -/
theorem stepRunsTheDecodedOperation : Obligations.StepRunsTheDecodedOperation := by
  refine ⟨?runs, ?illegal, ?reset, ?resetWithWord, fun s hp => step_nil hp⟩
  case runs =>
    intro s w rest i hp hd
    rw [step_cons hp, applyInput_word_instr hd, exec_eq, effect_with_port i s rest]
  case illegal =>
    intro s w rest why hp hd
    rw [step_cons hp, applyInput_word_illegal hd]
    rfl
  case reset => exact fun s rest hp => step_cons hp
  case resetWithWord => exact fun s w rest hp => step_cons hp

end Sys2Proof.Machine

/-!
PROOFS. Receiving a byte sequence at any RX_MAX, and what PARSE makes of it. The invariant `Received` ties RXLEN and
RXB to the bytes received so far; from it PARSE answers parseResponse of those bytes as soon as RX_MAX is at least
N_EXT, because the saturated count still stands in the right length class (R9).
-/

namespace Sys2Proof.Machine

/-- `s32` is the two's-complement value of the library (R11). -/
theorem s32_eq_toInt (v : DWord) : s32 v = v.toInt := by
  rw [s32, BitVec.toInt_eq_msb_cond, BitVec.msb_eq_getLsbD_last]
  cases v.getLsbD 31 <;> simp

@[simp] theorem u32_s32 (v : DWord) : u32 (s32 v) = v := by
  rw [u32, s32_eq_toInt, BitVec.ofInt_toInt]

/-- The receive buffer holds the sequence: RXLEN is its length, saturated at RX_MAX, and each of its first 13 bytes
stands at its offset of RXB (R24, R25). -/
def Received (rxMax : Count) (raw : List Byte) (s : State) : Prop :=
  s.rxlen.toNat = min raw.length rxMax.toNat ∧
    ∀ k : Fin 13, k.val < raw.length → raw[k.val]? = some s.rxb[k]

section
variable {rxMax : Count} {raw : List Byte} {s : State}

theorem received_nil (rxMax : Count) (h : s.rxlen = 0) : Received rxMax [] s :=
  ⟨by simp [h], fun k hk => absurd hk (Nat.not_lt_zero k.val)⟩

/-- One more byte (R152): it lands at the offset of its place in the sequence, or is counted only. -/
theorem Received.receiveByte (hm : 13 ≤ rxMax.toNat) (h : Received rxMax raw s) (b : Byte) :
    Received rxMax (raw ++ [b]) (receiveByte rxMax b s) := by
  obtain ⟨hlen, hbytes⟩ := h
  refine ⟨?_, fun k hk => ?_⟩
  · rw [receiveByte_rxlen, countByte_toNat, List.length_append, List.length_singleton]
    split <;> omega
  · have hk13 := k.isLt
    rw [List.length_append, List.length_singleton] at hk
    rw [receiveByte_rxb, storeByte_get]
    by_cases hlast : k.val = raw.length
    · have hoff : s.rxlen.toNat = k.val := by omega
      rw [if_pos hoff, hlast, List.getElem?_concat_length]
    · have hold : k.val < raw.length := by omega
      have hoff : s.rxlen.toNat ≠ k.val := by omega
      rw [if_neg hoff, List.getElem?_append_left hold, hbytes k hold]

/-- A whole sequence received from RXLEN = 0. -/
theorem received_receiveAll (hm : 13 ≤ rxMax.toNat) (h : s.rxlen = 0) (raw : List Byte) :
    Received rxMax raw (receiveAll rxMax raw s) := by
  induction raw using List.reverseRecOn with
  | nil => exact received_nil rxMax h
  | append_singleton raw b ih =>
    rw [receiveAll, List.foldl_append]
    exact ih.receiveByte hm b

/-- RXLEN and the sequence lie on the same side of any length up to RX_MAX. -/
theorem Received.le_rxlen_iff (h : Received rxMax raw s) {n : Nat} (hn : n ≤ rxMax.toNat) :
    n ≤ s.rxlen.toNat ↔ n ≤ raw.length := by
  rw [h.1]
  omega

theorem Received.byteAt_eq (h : Received rxMax raw s) {k : Nat} (hk : k < 13) (hl : k < raw.length) :
    byteAt raw k = s.rxb[k] := by
  have hget : raw[k]? = some s.rxb[k] := h.2 ⟨k, hk⟩ hl
  rw [byteAt, List.getD_eq_getElem?_getD, hget, Option.getD_some]

/-- The pattern of a signed field within the 13 stored bytes. -/
theorem Received.u32_signedField (h : Received rxMax raw s) {i : Nat} (hi : i + 3 < 13) (hl : 13 ≤ raw.length) :
    u32 (signedField raw i) = le32 s.rxb[i] s.rxb[i + 1] s.rxb[i + 2] s.rxb[i + 3] := by
  rw [signedField, u32_s32, h.byteAt_eq (by omega) (by omega), h.byteAt_eq (by omega) (by omega),
    h.byteAt_eq (by omega) (by omega), h.byteAt_eq (by omega) (by omega)]

/-- With 13 bytes or more the decode of the stored bytes is the reading of the sequence (R153, R154). -/
theorem Received.okResults_eq (hm : nExt ≤ rxMax.toNat) (h : Received rxMax raw s) (hl : nMin ≤ raw.length) :
    okResults s.rxlen s.rxb = resultsOf (parseResponse raw) := by
  have hl13 : 13 ≤ raw.length := hl
  have hbyte {k : Nat} (hk : k < 13) : byteAt raw k = s.rxb[k] := h.byteAt_eq hk (by omega)
  have htare : u32 (if nExt ≤ raw.length then signedField raw 9 else 0) =
      if nExt ≤ raw.length then le32 s.rxb[9] s.rxb[10] s.rxb[11] s.rxb[12] else 0 := by
    split
    · exact h.u32_signedField (i := 9) (by omega) hl13
    · rfl
  simp only [okResults, parseResponse, if_neg (Nat.not_lt.mpr hl), resultsOf, htare,
    h.u32_signedField (i := 1) (by omega) hl13, hbyte (k := 5) (by omega), hbyte (k := 6) (by omega),
    hbyte (k := 7) (by omega), hbyte (k := 8) (by omega), h.le_rxlen_iff hm]

/-- PARSE answers parseResponse of what was received, in each length class (R153, R154). -/
theorem Received.effect_parse_res (hm : nExt ≤ rxMax.toNat) (h : Received rxMax raw s) :
    (effect .parse s).res = resultsOf (parseResponse raw) := by
  have hmin : nMin ≤ s.rxlen.toNat ↔ nMin ≤ raw.length := h.le_rxlen_iff (le_trans (by decide) hm)
  rw [effect]
  by_cases hl : nMin ≤ raw.length
  · rw [if_neg (Nat.not_lt.mpr (hmin.mpr hl)), writeResults_res, h.okResults_eq hm hl]
  · have hshort : s.rxlen.toNat < nMin := Nat.not_le.mp (mt hmin.mp hl)
    rw [if_pos hshort, raiseShortResponse_res, parseResponse, if_pos (Nat.not_le.mp hl), resultsOf]

end

/-- Settles O44: the receive invariant holds at any RX_MAX of 17 or more, and PARSE reads no more than it says. -/
theorem parseDoesNotDependOnRxMax : Obligations.ParseDoesNotDependOnRxMax := by
  intro rxMax raw s hm hempty
  have hrec : Received rxMax raw (receiveAll rxMax raw s) :=
    received_receiveAll (le_trans (by decide) hm) hempty raw
  exact ⟨_, exec_eq .parse _, hrec.effect_parse_res hm⟩

end Sys2Proof.Machine

/-!
PROOFS. One equation per operation for `effect`, PARSE's without its length test, and the inversions that name the
next state of an operation and of an input.
-/

namespace Sys2Proof.Machine

/-- What PARSE leaves in RES_*, as a function of RXLEN and RXB (R153). -/
def parseResults (rxlen : Count) (rxb : Vector Byte 13) : Results :=
  if rxlen.toNat < nMin then shortResults else okResults rxlen rxb

@[simp] theorem effect_nop (s : State) : effect .nop s = s := rfl
@[simp] theorem effect_crcInit (s : State) : effect .crcInit s = writeCrc crcInit s := rfl
@[simp] theorem effect_crcByte (b : Byte) (s : State) :
    effect (.crcByte b) s = writeCrc (crcUpdate s.crc b) s := rfl
@[simp] theorem effect_build (code : Byte) (s : State) :
    effect (.build code) s = writeFrame (buildCommand code) s := rfl
@[simp] theorem effect_rxClear (s : State) : effect .rxClear s = clearCount s := rfl
@[simp] theorem effect_rxByte (b : Byte) (s : State) :
    effect (.rxByte b) s = receiveByte Config.rxMax b s := rfl

/-- PARSE writes the result registers and nothing else, in both of its cases. -/
@[simp] theorem effect_parse (s : State) :
    effect .parse s = writeResults (parseResults s.rxlen s.rxb) s := by
  rw [effect, parseResults]
  split <;> rfl

theorem eq_effect_of_exec {i : Instr} {s t : State} (h : exec i s = .next t) : t = effect i s := by
  rw [exec_eq] at h
  exact (Host.Outcome.next.inj h).symm

theorem eq_applyInput_of_acceptInput {e : Input} {s t : State} (h : acceptInput e s = .next t) :
    t = applyInput e s := by
  rw [acceptInput_eq] at h
  exact (Host.Outcome.next.inj h).symm

theorem applyInput_of_isReset {e : Input} (h : isReset e = true) (s : State) : applyInput e s = resetBlock s := by
  cases e with
  | word w => cases h
  | reset => rfl
  | resetWithWord w => rfl

/-- Every input is an operation performed, an illegal word, or a reset, whatever the state it meets. -/
theorem applyInput_cases (e : Input) :
    (∃ i, performed e = some i ∧ ∀ s, applyInput e s = effect i s) ∨
      (isReset e = false ∧ performed e = none ∧ ∀ s, applyInput e s = raiseIllegalOperation s) ∨
      (isReset e = true ∧ performed e = none ∧ ∀ s, applyInput e s = resetBlock s) := by
  cases e with
  | word w =>
    cases hd : decode w with
    | instr i => exact .inl ⟨i, by simp [performed, hd], applyInput_word_instr hd⟩
    | illegal why => exact .inr (.inl ⟨rfl, by simp [performed, hd], applyInput_word_illegal hd⟩)
  | reset => exact .inr (.inr ⟨rfl, rfl, applyInput_of_isReset rfl⟩)
  | resetWithWord w => exact .inr (.inr ⟨rfl, rfl, applyInput_of_isReset rfl⟩)

end Sys2Proof.Machine

/-!
PROOFS. The invariant `State.Inv`: it holds after reset and every step keeps it (R25, R26, R23, R153).
-/

namespace Sys2Proof.Machine

theorem inv_of_reset_values {s : State} (hlen : s.rxlen = 0) (hres : s.res = Results.reset)
    (htxf : s.txf = Vector.replicate 8 0) : s.Inv :=
  ⟨by simp [hlen], .inl hres, .inl htxf⟩

/-- An absent tare is 0 in PARSE's decode (R30, R153). -/
theorem okResults_tare_of_absent {n : Count} {v : Vector Byte 13} (h : (okResults n v).tareValid = false) :
    (okResults n v).tare = 0 :=
  if_neg (of_decide_eq_false h)

theorem parseResults_legal (n : Count) (v : Vector Byte 13) : (parseResults n v).legal := by
  rw [parseResults]
  split
  · exact .inr (.inl rfl)
  · exact .inr (.inr ⟨rfl, okResults_tare_of_absent⟩)

theorem effect_keeps_inv (i : Instr) {s : State} (h : s.Inv) : (effect i s).Inv := by
  obtain ⟨hlen, hres, hframe⟩ := h
  cases i with
  | nop => exact ⟨hlen, hres, hframe⟩
  | crcInit => exact ⟨hlen, hres, hframe⟩
  | crcByte b => exact ⟨hlen, hres, hframe⟩
  | build code => exact ⟨hlen, hres, .inr ⟨code, rfl⟩⟩
  | rxClear => exact ⟨Nat.zero_le _, hres, hframe⟩
  | rxByte b => exact ⟨countByte_le hlen, hres, hframe⟩
  | parse =>
    rw [effect_parse]
    exact ⟨hlen, parseResults_legal s.rxlen s.rxb, hframe⟩

theorem applyInput_keeps_inv (e : Input) {s : State} (h : s.Inv) : (applyInput e s).Inv := by
  obtain ⟨i, -, he⟩ | ⟨-, -, he⟩ | ⟨-, -, he⟩ := applyInput_cases e <;> rw [he]
  · exact effect_keeps_inv i h
  · exact h
  · exact inv_of_reset_values rfl rfl rfl

/-- Settles O30: the invariant does not speak of the port, and every input keeps it. -/
theorem everyStepKeepsTheInvariant : Obligations.EveryStepKeepsTheInvariant := by
  intro s t h hstep
  obtain ⟨-, rfl⟩ | ⟨e, rest, -, rfl⟩ := step_cases hstep
  · exact h
  · exact applyInput_keeps_inv e h

/-- Settles O31: the three elements the invariant speaks of hold their reset values. -/
theorem resetMeetsTheInvariant : Obligations.ResetMeetsTheInvariant :=
  fun _ _ _ => inv_of_reset_values rfl rfl rfl

/-- Settles O25, by evaluation of the reset state. -/
theorem resetValues : Obligations.ResetValues :=
  ⟨rfl, by decide, rfl, rfl, rfl, rfl, rfl, rfl, rfl, rfl, rfl, rfl⟩

end Sys2Proof.Machine

/-!
PROOFS. The STATUS register as a number, its fields (R34), and what the invariant says through the read port.
-/

namespace Sys2Proof.Machine

/-- Appended bit vectors as a number: the left part stands above the right one. -/
theorem toNat_append_eq_add {m n : Nat} (x : BitVec m) (y : BitVec n) :
    (x ++ y).toNat = x.toNat * 2 ^ n + y.toNat := by
  rw [BitVec.toNat_append, ← Nat.shiftLeft_add_eq_or_of_lt y.isLt, Nat.shiftLeft_eq]

/-- STATUS as the sum of its fields by weight (R34). -/
theorem statusWord_toNat (s : State) :
    (statusWord s).toNat = s.res.status.toNat + 4 * s.res.stable.toNat + 8 * s.res.net.toNat +
      16 * s.res.zero.toNat + 32 * s.res.tareValid.toNat + 64 * s.ill.toNat := by
  have h0 : (0 : BitVec 25).toNat = 0 := rfl
  simp only [statusWord, toNat_append_eq_add, BitVec.toNat_ofBool, h0]
  omega

theorem statusWord_toNat_lt (s : State) : (statusWord s).toNat < 2 ^ 7 := by
  have := s.res.status.isLt
  have := Bool.toNat_le s.res.stable
  have := Bool.toNat_le s.res.net
  have := Bool.toNat_le s.res.zero
  have := Bool.toNat_le s.res.tareValid
  have := Bool.toNat_le s.ill
  rw [statusWord_toNat]
  omega

theorem statusWord_toNat_mod (s : State) : (statusWord s).toNat % 4 = s.res.status.toNat := by
  have := s.res.status.isLt
  rw [statusWord_toNat]
  omega

theorem statusWord_extractLsb_status (s : State) : (statusWord s).extractLsb' 0 2 = s.res.status := by
  apply BitVec.eq_of_toNat_eq
  rw [BitVec.extractLsb'_toNat, Nat.shiftRight_zero]
  exact statusWord_toNat_mod s

/-- The one-bit fields of STATUS, each at its bit (R34). -/
theorem statusWord_flags (s : State) :
    (statusWord s).getLsbD 2 = s.res.stable ∧ (statusWord s).getLsbD 3 = s.res.net ∧
      (statusWord s).getLsbD 4 = s.res.zero ∧ (statusWord s).getLsbD 5 = s.res.tareValid ∧
      (statusWord s).getLsbD 6 = s.ill := by
  simp only [statusWord, BitVec.getLsbD_append]
  simp

theorem readPort_status (s : State) : readPort 4 s = statusWord s := rfl

theorem readPort_rxlen_toNat (s : State) : (readPort 3 s).toNat = s.rxlen.toNat := by
  show (s.rxlen.zeroExtend 32).toNat = s.rxlen.toNat
  exact BitVec.toNat_setWidth_of_le (by decide)

/-- Settles O34: the two-bit field and the bound from STATUS as a number, the flags bit by bit. -/
theorem statusFields : Obligations.StatusFields := by
  intro s
  rw [readPort_status]
  obtain ⟨hstable, hnet, hzero, hvalid, hill⟩ := statusWord_flags s
  exact ⟨statusWord_extractLsb_status s, hstable, hnet, hzero, hvalid, hill, statusWord_toNat_lt s, rfl⟩

/-- Every result field but RES_STATUS is 0, as IDLE and SHORT have it (R36, R153). -/
def Results.fieldsZero (r : Results) : Prop :=
  r.weight = 0 ∧ r.division = 0 ∧ r.stable = false ∧ r.net = false ∧ r.zero = false ∧ r.tare = 0 ∧
    r.tareValid = false

/-- Legal results: the status is one of the three codes, and only OK leaves a field. -/
theorem Results.legal.status_cases {r : Results} (h : r.legal) :
    r.status = statusOk ∨ (r.status = 0b00 ∨ r.status = statusShort) ∧ r.fieldsZero := by
  obtain rfl | rfl | ⟨hok, -⟩ := h
  · exact .inr ⟨.inl rfl, rfl, rfl, rfl, rfl, rfl, rfl, rfl⟩
  · exact .inr ⟨.inr rfl, rfl, rfl, rfl, rfl, rfl, rfl, rfl⟩
  · exact .inl hok

theorem readPort_of_fieldsZero {s : State} (h : s.res.fieldsZero) :
    readPort 5 s = 0 ∧ readPort 6 s = 0 ∧ readPort 7 s = 0 ∧ (readPort 4 s).toNat / 4 % 16 = 0 := by
  obtain ⟨hweight, hdivision, hstable, hnet, hzero, htare, hvalid⟩ := h
  refine ⟨hweight, ?_, htare, ?_⟩
  · show s.res.division.zeroExtend 32 = 0
    rw [hdivision]
    rfl
  · have hst := s.res.status.isLt
    rw [readPort_status, statusWord_toNat, hstable, hnet, hzero, hvalid]
    simp only [Bool.toNat_false]
    omega

/-- Settles O32: the status code decides, and a code that is not OK leaves every field 0. -/
theorem invariantSeenThroughTheReadPort : Obligations.InvariantSeenThroughTheReadPort := by
  intro s h
  obtain ⟨hlen, hres, -⟩ := h
  rw [readPort_rxlen_toNat, readPort_status, statusWord_toNat_mod]
  refine ⟨hlen, ?_⟩
  obtain hok | ⟨hcode, hfields⟩ := hres.status_cases
  · rw [hok]
    exact ⟨by decide, fun hne => absurd rfl hne⟩
  · refine ⟨?_, fun _ => readPort_of_fieldsZero hfields⟩
    obtain hidle | hshort := hcode
    · rw [hidle]; decide
    · rw [hshort]; decide

end Sys2Proof.Machine

/-!
PROOFS. What each operation writes (R39), that it neither reads nor writes ILL (R204), and RX_BYTE's frame (R152).
-/

namespace Sys2Proof.Machine

section
variable {i : Instr} {s : State}

theorem eq_crc_instr_of_crc_ne (h : (effect i s).crc ≠ s.crc) : i = .crcInit ∨ ∃ b, i = .crcByte b := by
  cases i with
  | crcInit => exact .inl rfl
  | crcByte b => exact .inr ⟨b, rfl⟩
  | nop | build _ | rxClear | rxByte _ | parse => simp at h

theorem eq_build_of_txf_ne (h : (effect i s).txf ≠ s.txf) : ∃ code, i = .build code := by
  cases i with
  | build code => exact ⟨code, rfl⟩
  | nop | crcInit | crcByte _ | rxClear | rxByte _ | parse => simp at h

theorem eq_rxByte_of_rxb_ne (h : (effect i s).rxb ≠ s.rxb) : s.rxlen.toNat < 13 ∧ ∃ b, i = .rxByte b := by
  cases i with
  | rxByte b => exact ⟨Nat.lt_of_not_le fun hge => h (storeByte_of_ge hge b s.rxb), b, rfl⟩
  | nop | crcInit | crcByte _ | build _ | rxClear | parse => simp at h

theorem eq_rx_instr_of_rxlen_ne (h : (effect i s).rxlen ≠ s.rxlen) :
    i = .rxClear ∨ s.rxlen.toNat < Config.rxMax.toNat ∧ ∃ b, i = .rxByte b := by
  cases i with
  | rxClear => exact .inl rfl
  | rxByte b => exact .inr ⟨Decidable.of_not_not fun hge => h (if_neg hge), b, rfl⟩
  | nop | crcInit | crcByte _ | build _ | parse => simp at h

theorem eq_parse_of_res_ne (h : (effect i s).res ≠ s.res) : i = .parse := by
  cases i with
  | parse => rfl
  | nop | crcInit | crcByte _ | build _ | rxClear | rxByte _ => simp at h

end

@[simp] theorem effect_ill (i : Instr) (s : State) : (effect i s).ill = s.ill := by
  cases i <;> simp

@[simp] theorem effect_freeIndex (i : Instr) (s : State) : (effect i s).freeIndex = s.freeIndex := by
  cases i <;> simp

/-- An operation neither reads nor writes ILL. -/
theorem effect_with_ill (i : Instr) (s : State) (v : Bool) :
    effect i { s with ill := v } = { effect i s with ill := v } := by
  cases i with
  | parse => simp only [effect_parse]; rfl
  | nop | crcInit | crcByte _ | build _ | rxClear | rxByte _ => rfl

/-- Settles O22: an operation by the lemma of each element, an illegal word and a reset by what they leave. -/
theorem writeMatrix : Obligations.WriteMatrix := by
  refine ⟨?operation, ?illegal, ?reset⟩
  case operation =>
    intro i s t h
    obtain rfl := eq_effect_of_exec h
    exact ⟨eq_crc_instr_of_crc_ne, eq_build_of_txf_ne, eq_rxByte_of_rxb_ne, eq_rx_instr_of_rxlen_ne,
      eq_parse_of_res_ne, effect_ill i s, effect_port i s, effect_freeIndex i s⟩
  case illegal =>
    intro w why s hd
    rw [acceptInput_eq, applyInput_word_illegal hd]
    rfl
  case reset =>
    intro e s t he h
    obtain rfl := eq_applyInput_of_acceptInput h
    rw [applyInput_of_isReset he]
    exact ⟨rfl, rfl, rfl, rfl, rfl⟩

/-- Settles O27: an operation commutes with any write of ILL. -/
theorem illegalWordSetsStickyIll : Obligations.IllegalWordSetsStickyIll := by
  refine ⟨?illegal, ?keeps, ?ignores, ?reset⟩
  case illegal =>
    intro w why s hd
    exact (acceptInput_eq (.word w) s).trans (congrArg _ (applyInput_word_illegal hd s))
  case keeps =>
    intro i s t h
    rw [eq_effect_of_exec h, effect_ill]
  case ignores =>
    intro i s t v h
    rw [exec_eq, effect_with_ill, ← eq_effect_of_exec h]
  case reset =>
    intro e s t he h
    rw [eq_applyInput_of_acceptInput h, applyInput_of_isReset he, resetBlock_ill]

theorem storeOffset_eq_some_iff {n : Count} {k : Fin 13} : storeOffset n = some k ↔ n.toNat = k.val := by
  by_cases h : n.toNat < 13
  · rw [storeOffset_of_lt h, Option.some_inj, Fin.ext_iff]
  · have hk := k.isLt
    rw [storeOffset_of_ge (Nat.not_lt.mp h)]
    exact ⟨nofun, fun hkn => by omega⟩

/-- Settles O20: each byte of RXB by `storeByte_get`, the frame by the shape of `receiveByte`. -/
theorem rxByteStoresOnlyAtItsOffset : Obligations.RxByteStoresOnlyAtItsOffset := by
  intro b s t h
  obtain rfl := eq_effect_of_exec h
  refine ⟨fun k hk => ?_, fun k hk => ?_, rfl, rfl, rfl, rfl, rfl, rfl⟩
  · rw [effect_rxByte, receiveByte_rxb, storeByte_get, if_neg (mt storeOffset_eq_some_iff.mpr hk)]
  · rw [effect_rxByte, receiveByte_rxb, storeByte_get, if_pos (storeOffset_eq_some_iff.mp hk)]

end Sys2Proof.Machine

/-!
PROOFS. A receive run: every input but RX_CLEAR and reset keeps `Received`, with the byte of an RX_BYTE added to the
sequence (R24, R25, R152).
-/

namespace Sys2Proof.Machine

@[simp] theorem rxBytes_nil : rxBytes [] = [] := rfl

theorem rxBytes_cons_rxByte {e : Input} {b : Byte} (h : performed e = some (.rxByte b)) (es : List Input) :
    rxBytes (e :: es) = b :: rxBytes es :=
  List.filterMap_cons_some (by rw [h])

theorem rxBytes_cons_other {e : Input} (h : ∀ b, performed e ≠ some (.rxByte b)) (es : List Input) :
    rxBytes (e :: es) = rxBytes es := by
  refine List.filterMap_cons_none ?_
  split
  next b hb => exact absurd hb (h b)
  next => rfl

theorem effect_leaves_receiver {i : Instr} (hclear : i ≠ .rxClear) (hbyte : ∀ b, i ≠ .rxByte b) (s : State) :
    (effect i s).rxlen = s.rxlen ∧ (effect i s).rxb = s.rxb := by
  cases i with
  | rxClear => exact absurd rfl hclear
  | rxByte b => exact absurd rfl (hbyte b)
  | nop | crcInit | crcByte _ | build _ | parse => simp

section
variable {e : Input} {raw : List Byte} {s : State}

theorem applyInput_of_performed {i : Instr} (h : performed e = some i) (s : State) :
    applyInput e s = effect i s := by
  obtain ⟨j, hj, he⟩ | ⟨-, hnone, -⟩ | ⟨-, hnone, -⟩ := applyInput_cases e
  · rw [he, Option.some.inj (hj.symm.trans h)]
  · rw [hnone] at h; cases h
  · rw [hnone] at h; cases h

theorem applyInput_leaves_receiver (hreset : isReset e = false) (hclear : performed e ≠ some .rxClear)
    (hbyte : ∀ b, performed e ≠ some (.rxByte b)) (s : State) :
    (applyInput e s).rxlen = s.rxlen ∧ (applyInput e s).rxb = s.rxb := by
  obtain ⟨i, hi, he⟩ | ⟨-, -, he⟩ | ⟨hr, -, -⟩ := applyInput_cases e
  · rw [he]
    rw [hi] at hclear hbyte
    exact effect_leaves_receiver (fun h => hclear (congrArg some h)) (fun b h => hbyte b (congrArg some h)) s
  · rw [he]
    exact ⟨rfl, rfl⟩
  · rw [hr] at hreset; cases hreset

/-- A run of such inputs adds the bytes its RX_BYTEs carry. -/
theorem Received.applyAll {es : List Input}
    (hes : ∀ e ∈ es, isReset e = false ∧ performed e ≠ some .rxClear) (h : Received Config.rxMax raw s) :
    Received Config.rxMax (raw ++ rxBytes es) (applyAll es s) := by
  induction es generalizing raw s with
  | nil => rwa [rxBytes_nil, List.append_nil]
  | cons e es ih =>
    obtain ⟨⟨hreset, hclear⟩, hrest⟩ := List.forall_mem_cons.mp hes
    rw [applyAll_cons]
    by_cases hbyte : ∃ b, performed e = some (.rxByte b)
    · obtain ⟨b, hb⟩ := hbyte
      have hnext : Received Config.rxMax (raw ++ [b]) (applyInput e s) := by
        rw [applyInput_of_performed hb]
        exact h.receiveByte (by decide) b
      rw [rxBytes_cons_rxByte hb, List.append_cons]
      exact ih hrest hnext
    · have hother : ∀ b, performed e ≠ some (.rxByte b) := not_exists.mp hbyte
      obtain ⟨hlen, hrxb⟩ := applyInput_leaves_receiver hreset hclear hother s
      have hnext : Received Config.rxMax raw (applyInput e s) := by rwa [Received, hlen, hrxb]
      rw [rxBytes_cons_other hother]
      exact ih hrest hnext

end

/-- Settles O41: a receive run from the empty buffer. -/
theorem receiveRunCountsAndStores : Obligations.ReceiveRunCountsAndStores := by
  intro es s hes hempty
  exact ⟨applyAll es s, run_eq es s, (received_nil Config.rxMax hempty).applyAll hes⟩

end Sys2Proof.Machine

/-!
PROOFS. Stale bytes of RXB are never seen (R38): no read register shows RXB, and the relation `State.sameButStale` is
kept by every input, so by every step and every run.
-/

namespace Sys2Proof.Machine

theorem sameButStale_iff {s t : State} :
    s.sameButStale t ↔
      ∃ v, t = { s with rxb := v } ∧ ∀ k : Fin 13, k.val < s.rxlen.toNat → s.rxb[k] = v[k] := by
  constructor
  · rintro ⟨heq, hbytes⟩
    exact ⟨t.rxb, heq.symm, hbytes⟩
  · rintro ⟨v, rfl, hbytes⟩
    exact ⟨rfl, hbytes⟩

/-- With nothing received, every byte of RXB is stale. -/
theorem sameButStale_of_rxlen_zero {s : State} (h : s.rxlen = 0) (v : Vector Byte 13) :
    s.sameButStale { s with rxb := v } :=
  ⟨rfl, fun k hk => absurd hk (by simp [h])⟩

theorem readPort_with_rxb (sel : BitVec 4) (s : State) (v : Vector Byte 13) :
    readPort sel { s with rxb := v } = readPort sel s := rfl

theorem sameReads_of_sameButStale {s t : State} (h : s.sameButStale t) : s.sameReads t := by
  obtain ⟨v, rfl, -⟩ := sameButStale_iff.mp h
  exact fun sel => (readPort_with_rxb sel s v).symm

/-- PARSE reads no byte at an offset from RXLEN on: below 13 received bytes it reads none. -/
theorem parseResults_congr {n : Count} {v w : Vector Byte 13}
    (h : ∀ k : Fin 13, k.val < n.toNat → v[k] = w[k]) : parseResults n v = parseResults n w := by
  by_cases hn : n.toNat < nMin
  · rw [parseResults, parseResults, if_pos hn, if_pos hn]
  · have hvw : v = w := Vector.ext fun k hk => h ⟨k, hk⟩ (lt_of_lt_of_le hk (Nat.not_lt.mp hn))
    rw [hvw]

/-- The byte RX_BYTE stores is the one that stops being stale. -/
theorem storeByte_congr {m n : Count} {b : Byte} {v w : Vector Byte 13}
    (h : ∀ k : Fin 13, k.val < n.toNat → v[k] = w[k]) (k : Fin 13) (hk : k.val < (countByte m n).toNat) :
    (storeByte n b v)[k] = (storeByte n b w)[k] := by
  rw [storeByte_get, storeByte_get]
  rw [countByte_toNat] at hk
  by_cases hoff : n.toNat = k.val
  · rw [if_pos hoff, if_pos hoff]
  · rw [if_neg hoff, if_neg hoff]
    refine h k ?_
    split at hk <;> omega

theorem effect_sameButStale (i : Instr) {s t : State} (h : s.sameButStale t) :
    (effect i s).sameButStale (effect i t) := by
  obtain ⟨v, rfl, hbytes⟩ := sameButStale_iff.mp h
  cases i with
  | nop | crcInit | crcByte _ | build _ => exact ⟨rfl, hbytes⟩
  | rxClear => exact sameButStale_of_rxlen_zero (s := clearCount s) rfl v
  | rxByte b => exact ⟨rfl, storeByte_congr hbytes⟩
  | parse =>
    rw [effect_parse, effect_parse, parseResults_congr hbytes]
    exact ⟨rfl, hbytes⟩

theorem applyInput_sameButStale (e : Input) {s t : State} (h : s.sameButStale t) :
    (applyInput e s).sameButStale (applyInput e t) := by
  obtain ⟨i, -, he⟩ | ⟨-, -, he⟩ | ⟨-, -, he⟩ := applyInput_cases e <;> rw [he, he]
  · exact effect_sameButStale i h
  · obtain ⟨v, rfl, hbytes⟩ := sameButStale_iff.mp h
    exact ⟨rfl, hbytes⟩
  · obtain ⟨v, rfl, -⟩ := sameButStale_iff.mp h
    exact sameButStale_of_rxlen_zero (s := resetBlock s) rfl (Config.rxbAfterReset s.freeIndex v)

theorem applyAll_sameButStale (es : List Input) {s t : State} (h : s.sameButStale t) :
    (applyAll es s).sameButStale (applyAll es t) := by
  induction es generalizing s t with
  | nil => exact h
  | cons e es ih => exact ih (applyInput_sameButStale e h)

theorem sameButStale_with_port {s t : State} (h : s.sameButStale t) (p : List Input) :
    State.sameButStale { s with port := p } { t with port := p } := by
  obtain ⟨v, rfl, hbytes⟩ := sameButStale_iff.mp h
  exact ⟨rfl, hbytes⟩

theorem port_eq_of_sameButStale {s t : State} (h : s.sameButStale t) : t.port = s.port := by
  obtain ⟨v, rfl, -⟩ := sameButStale_iff.mp h
  rfl

/-- Settles O45: both states take the same input off their ports, and every input keeps the relation. -/
theorem staleBytesAreNeverObserved : Obligations.StaleBytesAreNeverObserved := by
  intro s t h
  refine ⟨sameReads_of_sameButStale h, fun s' hstep => ?_⟩
  have hport := port_eq_of_sameButStale h
  obtain ⟨hnil, rfl⟩ | ⟨e, rest, hcons, rfl⟩ := step_cases hstep
  · exact ⟨t, step_nil (hport.trans hnil), h⟩
  · exact ⟨_, step_cons (hport.trans hcons), sameButStale_with_port (applyInput_sameButStale e h) rest⟩

/-- Settles O46: at reset every byte of RXB is stale. -/
theorem anyInitialRxbLooksTheSame : Obligations.AnyInitialRxbLooksTheSame := by
  intro v es
  have hreset := sameButStale_of_rxlen_zero (s := State.reset) rfl v
  exact ⟨_, _, run_eq es _, run_eq es _, sameReads_of_sameButStale (applyAll_sameButStale es hreset)⟩

end Sys2Proof.Machine

/-!
PROOFS. The byte order (R53 to R57): a 16-bit value as its two bytes, LE16 and LE32 as weighted sums of bytes, the
two's-complement value of a pattern, and the read registers as numbers.
-/

namespace Sys2Proof.Machine

theorem lowByte_toNat (c : Word) : (lowByte c).toNat = c.toNat % 256 := by
  rw [lowByte, BitVec.extractLsb'_toNat, Nat.shiftRight_zero]

theorem highByte_toNat (c : Word) : (highByte c).toNat = c.toNat / 256 := by
  have hc := c.isLt
  rw [highByte, BitVec.extractLsb'_toNat, Nat.shiftRight_eq_div_pow]
  omega

/-- LE16 as the sum of its bytes by weight (R12, R54). -/
theorem le16_toNat (b0 b1 : Byte) : (le16 b0 b1).toNat = b0.toNat + 2 ^ 8 * b1.toNat := by
  rw [le16, toNat_append_eq_add]
  omega

/-- LE32 as the sum of its bytes by weight (R55). -/
theorem le32_toNat (b0 b1 b2 b3 : Byte) :
    (le32 b0 b1 b2 b3).toNat =
      b0.toNat + 2 ^ 8 * b1.toNat + 2 ^ 16 * b2.toNat + 2 ^ 24 * b3.toNat := by
  simp only [le32, toNat_append_eq_add]
  omega

/-- The bytes of a 16-bit value, low byte first, make the value again (R54). -/
@[simp] theorem le16_lowByte_highByte (c : Word) : le16 (lowByte c) (highByte c) = c := by
  apply BitVec.eq_of_toNat_eq
  rw [le16_toNat, lowByte_toNat, highByte_toNat]
  exact Nat.mod_add_div c.toNat 256

/-- Settles O17: bytes 6 and 7 of the frame are the two bytes of the CRC of byte 5. -/
theorem checksumIsLittleEndianOfTheCode : Obligations.ChecksumIsLittleEndianOfTheCode := by
  intro code s
  refine ⟨effect (.build code) s, exec_eq (.build code) s, ?_⟩
  rw [effect_build, writeFrame_txf]
  exact ⟨lowByte_toNat (crc16 [code]), highByte_toNat (crc16 [code]), le16_lowByte_highByte (crc16 [code])⟩

/-- `s32` subtracts 2^32 exactly from the patterns with bit 31 set (R11). -/
theorem s32_eq_sub (v : DWord) : s32 v = (v.toNat : Int) - (if 2 ^ 31 ≤ v.toNat then 2 ^ 32 else 0) := by
  have hbit : v.getLsbD 31 = decide (2 ^ 31 ≤ v.toNat) :=
    (BitVec.msb_eq_getLsbD_last v).symm.trans (BitVec.msb_eq_decide v)
  simp only [s32, hbit, decide_eq_true_eq, mul_ite, mul_one, mul_zero]

/-- Settles O36: the weighted sum of LE32, and `s32` by the top bit of the pattern. -/
theorem littleEndianAndTwosComplement : Obligations.LittleEndianAndTwosComplement :=
  ⟨le32_toNat, fun v => ⟨s32_eq_sub v, u32_s32 v⟩⟩

theorem readPort_crc_toNat (s : State) : (readPort 0 s).toNat = s.crc.toNat := by
  show (s.crc.zeroExtend 32).toNat = s.crc.toNat
  exact BitVec.toNat_setWidth_of_le (by decide)

theorem readPort_division_toNat (s : State) : (readPort 6 s).toNat = s.res.division.toNat := by
  show (s.res.division.zeroExtend 32).toNat = s.res.division.toNat
  exact BitVec.toNat_setWidth_of_le (by decide)

/-- The reserved selects read 0 in every state (R33). -/
theorem readPort_of_reserved {sel : BitVec 4} (h : 8 ≤ sel.toNat) (s : State) : readPort sel s = 0 := by
  unfold readPort
  split
  case h_9 => rfl
  all_goals omega

/-- Settles O33: the packed registers by `le32_toNat`, the narrow ones by zero extension. -/
theorem readRegisterMap : Obligations.ReadRegisterMap := by
  intro s
  exact ⟨readPort_crc_toNat s, le32_toNat _ _ _ _, le32_toNat _ _ _ _, readPort_rxlen_toNat s, rfl,
    readPort_division_toNat s, rfl, fun _ h => readPort_of_reserved h s⟩

end Sys2Proof.Machine

/-!
PROOFS. The idempotent operations (R61): every operation but CRC_BYTE and RX_BYTE writes values it does not itself
change, so doing it again writes them again.
-/

namespace Sys2Proof.Machine

theorem effect_effect {i : Instr} (hcrc : ∀ b, i ≠ .crcByte b) (hrx : ∀ b, i ≠ .rxByte b) (s : State) :
    effect i (effect i s) = effect i s := by
  cases i with
  | crcByte b => exact absurd rfl (hcrc b)
  | rxByte b => exact absurd rfl (hrx b)
  | parse => simp only [effect_parse]; rfl
  | nop | crcInit | build _ | rxClear => rfl

/-- Below RX_MAX an RX_BYTE counts one more byte (R152). -/
theorem effect_rxByte_rxlen_toNat {s : State} (h : s.rxlen.toNat < Config.rxMax.toNat) (b : Byte) :
    (effect (.rxByte b) s).rxlen.toNat = s.rxlen.toNat + 1 := by
  rw [effect_rxByte, receiveByte_rxlen, countByte_toNat, if_pos h]

/-- Settles O24: none of the five operations is CRC_BYTE or RX_BYTE, and RX_BYTE counts. -/
theorem idempotentOperations : Obligations.IdempotentOperations := by
  refine ⟨?again, ?counts⟩
  case again =>
    intro i s t hi h
    obtain rfl := eq_effect_of_exec h
    rw [exec_eq, effect_effect]
    · rintro b rfl; simp at hi
    · rintro b rfl; simp at hi
  case counts =>
    intro b s t hlt h
    rw [eq_effect_of_exec h, effect_rxByte_rxlen_toNat hlt]

end Sys2Proof.Machine

/-!
PROOFS. The decoder (R78) and the encoder (R72) are inverse to each other: a word decodes to an operation exactly when
it is the encoder's word of that operation.
-/

namespace Sys2Proof

theorem decode_encode (i : Instr) : decode (encode i) = .instr i := by
  cases i with
  | nop | crcInit | rxClear | parse => decide
  | crcByte b | build b | rxByte b => simp [decode, encode, rsvOf_wordOf, opcOf_wordOf]

/-- What the decoder can answer, OPC by OPC: an operation whose word this is, or Illegal for one of R76's reasons. -/
theorem decode_cases (w : Word) :
    (∃ i, decode w = .instr i ∧ encode i = w) ∨
      ∃ why, decode w = .illegal why ∧
        (7 ≤ (opcOf w).toNat ∨ rsvOf w ≠ 0 ∨ (opcOf w ∈ [0x0, 0x1, 0x4, 0x6] ∧ dataOf w ≠ 0)) := by
  by_cases hr : rsvOf w = 0
  case neg => exact .inr ⟨_, if_pos hr, .inr (.inl hr)⟩
  have hw := wordOf_fields hr
  rw [decode, if_neg (not_not.mpr hr)]
  split
  case h_3 ho | h_4 ho | h_6 ho =>
    rw [opcOf_eq ho] at hw
    exact .inl ⟨_, rfl, hw⟩
  case h_8 =>
    simp only [imp_false] at *
    exact .inr ⟨_, rfl, .inl (by omega)⟩
  case h_1 ho | h_2 ho | h_5 ho | h_7 ho =>
    by_cases hd : dataOf w = 0
    · rw [opcOf_eq ho, hd] at hw
      exact .inl ⟨_, if_pos hd, hw⟩
    · exact .inr ⟨_, if_neg hd, .inr (.inr ⟨by rw [opcOf_eq ho]; decide, hd⟩)⟩

theorem encode_of_decode {w : Word} {i : Instr} (h : decode w = .instr i) : encode i = w := by
  obtain ⟨j, hj, he⟩ | ⟨why, hwhy, -⟩ := decode_cases w
  · cases h.symm.trans hj
    exact he
  · cases h.symm.trans hwhy

theorem decode_eq_instr_iff {w : Word} {i : Instr} : decode w = .instr i ↔ encode i = w :=
  ⟨encode_of_decode, fun h => h ▸ decode_encode i⟩

theorem encode_injective : Function.Injective encode := fun i j h =>
  Decoded.instr.inj <| by rw [← decode_encode i, ← decode_encode j, h]

/-- Settles O2: the fields of an encoded word are the ones it was put together from. -/
theorem encodeThenDecode : Obligations.EncodeThenDecode := decode_encode

/-- Settles O3: in each case of the decoder the word is put together again from the fields it read. -/
theorem decodeThenEncode : Obligations.DecodeThenEncode := fun _ _ => encode_of_decode

/-- Settles O1, by evaluation of the decoder on the eight words. -/
theorem writtenOutWordsDecode : Obligations.WrittenOutWordsDecode := by
  unfold Obligations.WrittenOutWordsDecode
  decide

end Sys2Proof

/-!
PROOFS. Legality: R76's three conditions (`Word.wellFormed`), the decoder (R78) and the encoder (R72) single out the
same words, and 772 of the 65,536.
-/

namespace Sys2Proof

/-- R76's three conditions as WellFormed.lean tests them, said of the word's fields. -/
theorem wellFormed_eq_false_iff {w : Word} :
    w.wellFormed = false ↔
      7 ≤ (opcOf w).toNat ∨ rsvOf w ≠ 0 ∨ (opcOf w ∈ [0x0, 0x1, 0x4, 0x6] ∧ dataOf w ≠ 0) := by
  have hdata : w.dataAllowed = false ↔ opcOf w ∈ [0x0, 0x1, 0x4, 0x6] ∧ dataOf w ≠ 0 := by
    simp [Word.dataAllowed, ← opcOf_toNat, ← dataOf_toNat, ← BitVec.toNat_inj, or_iff_not_imp_left]
  rw [Word.wellFormed, Bool.and_eq_false_iff, Bool.and_eq_false_iff, hdata, or_assoc]
  refine or_congr ?_ (or_congr ?_ Iff.rfl)
  · simp [Word.opcAssigned, ← opcOf_toNat]
  · simp [Word.rsvZero, ← rsvOf_toNat, ← BitVec.toNat_inj]

theorem wellFormed_encode (i : Instr) : (encode i).wellFormed = true := by
  cases i with
  | nop => exact Laws.EncodedWordIsLegal.nop.1
  | crcInit => exact Laws.EncodedWordIsLegal.crcInit.1
  | crcByte b => exact (Laws.EncodedWordIsLegal.crcByte b).1
  | build code => exact (Laws.EncodedWordIsLegal.build code).1
  | rxClear => exact Laws.EncodedWordIsLegal.rxClear.1
  | rxByte b => exact (Laws.EncodedWordIsLegal.rxByte b).1
  | parse => exact Laws.EncodedWordIsLegal.parse.1

theorem wellFormed_of_decode {w : Word} {i : Instr} (h : decode w = .instr i) : w.wellFormed = true :=
  encode_of_decode h ▸ wellFormed_encode i

theorem not_wellFormed_of_decode {w : Word} {why : IllegalWord} (h : decode w = .illegal why) :
    w.wellFormed = false := by
  obtain ⟨i, hi, -⟩ | ⟨-, -, hfields⟩ := decode_cases w
  · cases h.symm.trans hi
  · exact wellFormed_eq_false_iff.mpr hfields

theorem wellFormed_eq_isLegal_decode (w : Word) : w.wellFormed = isLegal (decode w) := by
  cases h : decode w with
  | instr i => exact wellFormed_of_decode h
  | illegal why => exact not_wellFormed_of_decode h

theorem isLegal_decode_iff {w : Word} : isLegal (decode w) = true ↔ ∃ i, encode i = w := by
  simp only [← decode_eq_instr_iff]
  cases decode w <;> simp [isLegal]

theorem isLegal_decode_eq_false_iff {w : Word} : isLegal (decode w) = false ↔ ∃ why, decode w = .illegal why := by
  cases decode w <;> simp [isLegal]

/-- Settles O6: every answer of the decoder agrees with R76's conditions, and the legal words are the encoder's. -/
theorem legalityAgreesWithDecoder : Obligations.LegalityAgreesWithDecoder := by
  intro w
  rw [wellFormed_eq_isLegal_decode, isLegal_decode_iff]
  simp only [eq_comm, and_self]

/-- All the operations: four without operand, three with one of 256 bytes (R75). -/
def operations : Finset Instr :=
  {.nop, .crcInit, .rxClear, .parse} ∪
    (Finset.univ.image .crcByte ∪ (Finset.univ.image .build ∪ Finset.univ.image .rxByte))

theorem mem_operations (i : Instr) : i ∈ operations := by
  have hb (f : Byte → Instr) (b : Byte) : f b ∈ Finset.univ.image f := Finset.mem_image_of_mem f (Finset.mem_univ b)
  cases i with
  | nop | crcInit | rxClear | parse => exact Finset.mem_union_left _ (by decide)
  | crcByte b => exact Finset.mem_union_right _ (Finset.mem_union_left _ (hb _ b))
  | build b => exact Finset.mem_union_right _ (Finset.mem_union_right _ (Finset.mem_union_left _ (hb _ b)))
  | rxByte b => exact Finset.mem_union_right _ (Finset.mem_union_right _ (Finset.mem_union_right _ (hb _ b)))

theorem card_univ_bitVec (n : Nat) : (Finset.univ : Finset (BitVec n)).card = 2 ^ n := by
  rw [Finset.card_univ, ← FinEnum.card_eq_fintypeCard, FinEnum.card_bitVec]

theorem card_image_byte {f : Byte → Instr} (hf : Function.Injective f) :
    (Finset.univ.image f).card = 2 ^ 8 := by
  rw [Finset.card_image_of_injective _ hf, card_univ_bitVec]

theorem card_operations : operations.card = 772 := by
  have hplain : ({.nop, .crcInit, .rxClear, .parse} : Finset Instr).card = 4 := by decide
  rw [operations, Finset.card_union_of_disjoint, Finset.card_union_of_disjoint, Finset.card_union_of_disjoint,
    card_image_byte, card_image_byte, card_image_byte, hplain]
  all_goals simp [Function.Injective, Finset.disjoint_left]

theorem card_legal_words : (Finset.univ.filter fun w : Word => isLegal (decode w) = true).card = 772 := by
  have hset : (Finset.univ.filter fun w : Word => isLegal (decode w) = true) = operations.image encode := by
    ext w
    simp [isLegal_decode_iff, mem_operations]
  rw [hset, Finset.card_image_of_injective _ encode_injective, card_operations]

/-- Where a test holds of `n` of the `n + m` elements of a type, it fails of the other `m`. Said of any type: over the
words themselves the kernel would evaluate the two sums. -/
theorem card_filter_eq_false {α : Type} [Fintype α] {f : α → Bool} {n m : Nat}
    (ht : (Finset.univ.filter (f · = true)).card = n) (hu : (Finset.univ : Finset α).card = n + m) :
    (Finset.univ.filter (f · = false)).card = m := by
  have hsum := Finset.card_filter_add_card_filter_not (s := Finset.univ) (f · = true)
  simp only [Bool.not_eq_true] at hsum
  omega

theorem card_illegal_words : (Finset.univ.filter fun w : Word => isLegal (decode w) = false).card = 64764 :=
  card_filter_eq_false card_legal_words (card_univ_bitVec 16)

/-- Settles O4: R76's conditions are those of `Word.wellFormed`, and the legal words are counted by their operations. -/
theorem illegalWordsAreThese : Obligations.IllegalWordsAreThese := by
  refine ⟨fun w => ?conditions, card_legal_words, card_illegal_words, fun w why s h => ?effect⟩
  case conditions =>
    rw [← isLegal_decode_eq_false_iff, ← wellFormed_eq_isLegal_decode, wellFormed_eq_false_iff]
  case effect =>
    rw [Machine.acceptWord, h]
    rfl

end Sys2Proof

/-!
PROOFS. The opcode map of R75: a row's match and mask single out the encoder's words of the row's operation.
-/

namespace Sys2Proof

/-- The mask 0xFF00 keeps OPC and RSV and drops DATA. -/
theorem and_mask_eq (w : Word) : w &&& 0xFF00 = w.extractLsb' 8 8 ++ (0 : Byte) := by
  calc w &&& 0xFF00 = (w.extractLsb' 8 8 ++ dataOf w : Word) &&& ((0xFF : Byte) ++ (0x00 : Byte)) :=
        congrArg₂ _ (Machine.le16_lowByte_highByte w).symm rfl
    _ = (w.extractLsb' 8 8 &&& BitVec.allOnes 8) ++ (dataOf w &&& 0) := BitVec.and_append
    _ = w.extractLsb' 8 8 ++ (0 : Byte) := by rw [BitVec.and_allOnes]; simp

theorem and_mask_eq_iff {w : Word} {opc : BitVec 4} :
    w &&& 0xFF00 = wordOf opc 0 ↔ wordOf opc (dataOf w) = w := by
  have hw : (w.extractLsb' 8 8 ++ dataOf w : Word) = w := Machine.le16_lowByte_highByte w
  calc w &&& 0xFF00 = wordOf opc 0 ↔ w.extractLsb' 8 8 = opc ++ (0 : BitVec 4) := by
        rw [and_mask_eq, wordOf, BitVec.append_left_inj]
    _ ↔ wordOf opc (dataOf w) = w.extractLsb' 8 8 ++ dataOf w := by rw [wordOf, BitVec.append_left_inj, eq_comm]
    _ ↔ wordOf opc (dataOf w) = w := by rw [hw]

theorem rowSelects_fullMask_iff {m w : Word} {op : Byte → Instr} :
    rowSelects ⟨m, 0xFFFF, op⟩ w = true ↔ m = w := by
  rw [rowSelects, beq_iff_eq, show (0xFFFF : Word) = BitVec.allOnes 16 from rfl, BitVec.and_allOnes, eq_comm]

theorem rowSelects_dataMask_iff (opc : BitVec 4) {w : Word} {op : Byte → Instr} :
    rowSelects ⟨wordOf opc 0, 0xFF00, op⟩ w = true ↔ wordOf opc (dataOf w) = w := by
  rw [rowSelects, beq_iff_eq, and_mask_eq_iff]

/-- A row of the opcode map selects a word exactly when the word is the encoder's word of the row's operation. -/
theorem rowSelects_iff {r : OpRow} (hr : r ∈ opcodeMap) (w : Word) :
    rowSelects r w = true ↔ encode (r.op (dataOf w)) = w := by
  simp only [opcodeMap, List.mem_cons, List.not_mem_nil, or_false] at hr
  obtain rfl | rfl | rfl | rfl | rfl | rfl | rfl := hr
  exacts [rowSelects_fullMask_iff, rowSelects_fullMask_iff, rowSelects_dataMask_iff 0x2, rowSelects_dataMask_iff 0x3,
    rowSelects_fullMask_iff, rowSelects_dataMask_iff 0x5, rowSelects_fullMask_iff]

theorem selectedOps_eq_filter (w : Word) :
    selectedOps w = (opcodeMap.map fun r => r.op (dataOf w)).filter fun i => decide (encode i = w) := by
  rw [selectedOps, List.filter_map]
  congr 1
  refine List.filter_congr fun r hr => ?_
  rw [Function.comp_apply, Bool.eq_iff_iff, rowSelects_iff hr, decide_eq_true_iff]

/-- Of the operations in the seven rows, at DATA as operand, one is `i`. -/
theorem selectedOps_encode (i : Instr) : selectedOps (encode i) = [i] := by
  simp only [selectedOps_eq_filter, encode_injective.eq_iff]
  cases i <;> simp [opcodeMap, encode]

theorem selectedOps_of_illegal {w : Word} {why : IllegalWord} (h : decode w = .illegal why) :
    selectedOps w = [] := by
  rw [selectedOps_eq_filter, List.filter_eq_nil_iff]
  intro i _ he
  rw [decide_eq_true_iff, ← decode_eq_instr_iff, h] at he
  cases he

/-- Settles O5: a word that decodes is the encoder's word of its operation, and no row selects an illegal one. -/
theorem opcodeMapSelectsWhatDecodes : Obligations.OpcodeMapSelectsWhatDecodes := by
  intro w
  cases h : decode w with
  | instr i => rw [← encode_of_decode h]; exact selectedOps_encode i
  | illegal why => exact selectedOps_of_illegal h

end Sys2Proof

/-!
PROOFS. A step is total (R70, R200, R203, R204, R230).
-/

namespace Sys2Proof.Machine

/-- Settles O8: with nothing waiting the state is held, and otherwise the oldest input is applied and taken off. -/
theorem everyStepAnswersNext : Obligations.EveryStepAnswersNext := by
  intro s
  cases hp : s.port with
  | nil => exact ⟨s, step_nil hp, hp⟩
  | cons e rest => exact ⟨_, step_cons hp, rfl⟩

end Sys2Proof.Machine

/-!
PROOFS. The assembler: what a line assembles to (R80) and the expansions of the pseudo-operations (R81).
-/

namespace Sys2Proof.Machine

theorem assemble_of_wellFormed {line : Asm} (h : line.wellFormed = true) : assemble line = some (expand line) :=
  if_pos h

theorem assemble_eq_none_iff {line : Asm} : assemble line = none ↔ line.wellFormed = false := by
  cases h : line.wellFormed <;> simp [assemble, h]

theorem byteLiteral_eq_false_iff {n : Nat} : byteLiteral n = false ↔ 255 < n := by
  rw [byteLiteral, decide_eq_false_iff_not]
  omega

@[simp] theorem byteLiteral_toNat (b : Byte) : byteLiteral b.toNat = true := decide_eq_true b.isLt

@[simp] theorem litByte_toNat (b : Byte) : litByte b.toNat = b := by
  rw [litByte, BitVec.ofNat_toNat, BitVec.setWidth_eq]

theorem all_byteLiteral (bytes : List Byte) : (bytes.map BitVec.toNat).all byteLiteral = true := by
  simp

theorem encode_crcInit : encode .crcInit = 0x1000 := rfl

theorem encode_rxClear : encode .rxClear = 0x4000 := rfl

theorem encode_parse : encode .parse = 0x6000 := rfl

theorem encode_crcByte (b : Byte) : encode (.crcByte b) = (0x20 : Byte) ++ b :=
  (append_eq_wordOf 0x2 b 0x20 rfl).symm

theorem encode_rxByte (b : Byte) : encode (.rxByte b) = (0x50 : Byte) ++ b :=
  (append_eq_wordOf 0x5 b 0x50 rfl).symm

/-- Settles O48: byte lists are no assembly error, and each byte is encoded behind its operation's high byte. -/
theorem pseudoOperationsExpand : Obligations.PseudoOperationsExpand := by
  refine ⟨rfl, by decide, fun bytes => ⟨?crc, ?recv, ?decode⟩⟩
  case crc =>
    rw [assemble_of_wellFormed (line := .crc _) (all_byteLiteral bytes)]
    simp [expand, coreOps, Function.comp_def, encode_crcInit, encode_crcByte]
  case recv =>
    rw [assemble_of_wellFormed (line := .recv _) (all_byteLiteral bytes)]
    simp [expand, coreOps, Function.comp_def, encode_rxClear, encode_rxByte]
  case decode =>
    rw [assemble_of_wellFormed (line := .decode _) (all_byteLiteral bytes)]
    simp [expand, coreOps, Function.comp_def, encode_rxClear, encode_rxByte, encode_parse]

theorem expand_eq_map_encode {line : Asm} (h : ∀ w, line ≠ .word w) : expand line = (coreOps line).map encode := by
  cases line with
  | word w => exact absurd rfl (h w)
  | _ => rfl

/-- Settles O49: an operand is checked as a byte, and a line other than `.word` gives encoded operations only. -/
theorem assemblyErrorsAndLegalWords : Obligations.AssemblyErrorsAndLegalWords := by
  refine ⟨fun n => ?errors, fun w => ?word, fun line ws hasm hline => ?legal⟩
  case errors =>
    have herr {line : Asm} (h : line.wellFormed = byteLiteral n) : assemble line = none ↔ 255 < n := by
      rw [assemble_eq_none_iff, h, byteLiteral_eq_false_iff]
    exact ⟨herr rfl, herr rfl, herr rfl⟩
  case word =>
    rw [assemble_of_wellFormed (line := .word w.toNat) (decide_eq_true w.isLt), expand, BitVec.ofNat_toNat,
      BitVec.setWidth_eq]
  case legal =>
    obtain ⟨-, hws⟩ := Option.ite_none_right_eq_some.mp hasm
    cases hws
    simp only [expand_eq_map_encode hline, List.forall_mem_map, wellFormed_encode, implies_true]

end Sys2Proof.Machine

/-!
PROOFS. The command frame (R100, R101): the word of BUILD, the frame it writes, and the frame of get-weight as the
host reads it.
-/

namespace Sys2Proof.Machine

theorem encode_build (code : Byte) : encode (.build code) = (0x30 : Byte) ++ code :=
  (append_eq_wordOf 0x3 code 0x30 rfl).symm

/-- The worked example of R101. -/
theorem buildCommand_getWeight :
    buildCommand cmdGetWeight = #v[0xF8, 0x55, 0xCE, 0x01, 0x00, 0x23, 0xF1, 0xF5] := by decide

/-- The get-weight frame as TXLO and TXHI show it, byte 0 lowest (R33, R57). -/
theorem readPort_of_getWeight_frame {s : State} (h : s.txf = buildCommand cmdGetWeight) :
    readPort 1 s = 0x01CE55F8 ∧ readPort 2 s = 0xF5F12300 := by
  show le32 s.txf[0] s.txf[1] s.txf[2] s.txf[3] = _ ∧ le32 s.txf[4] s.txf[5] s.txf[6] s.txf[7] = _
  rw [h, buildCommand_getWeight]
  decide

/-- Settles O16: the effect is a write of `buildCommand`, the corner codes are evaluated, and a second write of TXF
replaces the first. -/
theorem buildWritesTheFrame : Obligations.BuildWritesTheFrame := by
  refine ⟨fun code => ?decodes, fun w _ hrsv => ⟨_, if_pos hrsv⟩, fun code s => exec_eq (.build code) s,
    by decide, by decide, fun c d s t h => ?second, fun s t h => ?worked⟩
  case decodes => rw [← encode_build, decode_encode]
  case second =>
    rw [eq_effect_of_exec h]
    rfl
  case worked =>
    have htxf : t.txf = buildCommand cmdGetWeight := by rw [eq_effect_of_exec h]; rfl
    exact ⟨htxf.trans buildCommand_getWeight, readPort_of_getWeight_frame htxf⟩

end Sys2Proof.Machine

/-!
PROOFS. The runs of DECODE and of one get-weight exchange (R81, R154, R235), and what the read port shows of a parsed
response.
-/

namespace Sys2Proof.Machine

theorem applyInput_encode (i : Instr) (s : State) : applyInput (.word (encode i)) s = effect i s :=
  applyInput_word_instr (decode_encode i) s

theorem receiveAll_txf (rxMax : Count) (raw : List Byte) (s : State) : (receiveAll rxMax raw s).txf = s.txf := by
  induction raw generalizing s with
  | nil => rfl
  | cons b raw ih => exact ih (receiveByte rxMax b s)

theorem applyAll_rxBytes (raw : List Byte) (s : State) :
    applyAll ((raw.map fun b => encode (.rxByte b)).map .word) s = receiveAll Config.rxMax raw s := by
  simp only [applyAll, receiveAll, List.foldl_map, applyInput_encode, effect_rxByte]

/-- The words of DECODE: RXLEN to 0, the whole sequence received, and PARSE (R81). -/
theorem applyAll_decodeWords (raw : List Byte) (s : State) :
    applyAll ((decodeWords raw).map .word) s =
      effect .parse (receiveAll Config.rxMax raw (clearCount s)) := by
  rw [decodeWords, List.map_append, List.map_cons, applyAll_append, applyAll_cons, applyAll_rxBytes,
    applyInput_encode, effect_rxClear]
  exact applyInput_encode .parse _

/-- DECODE leaves what parseResponse answers (R154). -/
theorem applyAll_decodeWords_res (raw : List Byte) (s : State) :
    (applyAll ((decodeWords raw).map .word) s).res = resultsOf (parseResponse raw) := by
  rw [applyAll_decodeWords]
  have hrec : Received Config.rxMax raw (receiveAll Config.rxMax raw (clearCount s)) :=
    received_receiveAll (by decide) (clearCount_rxlen s) raw
  exact hrec.effect_parse_res (by decide)

theorem applyAll_decodeWords_txf (raw : List Byte) (s : State) :
    (applyAll ((decodeWords raw).map .word) s).txf = s.txf := by
  rw [applyAll_decodeWords, effect_parse, writeResults_txf, receiveAll_txf, clearCount_txf]

theorem applyAll_getWeightWords (reply : List Byte) (s : State) :
    applyAll ((getWeightWords reply).map .word) s =
      applyAll ((decodeWords reply).map .word) (writeFrame (buildCommand cmdGetWeight) s) := by
  rw [getWeightWords, List.map_cons, applyAll_cons, applyInput_encode, effect_build]

/-- A signed field is the value of a 32-bit pattern, so `u32` loses nothing of it (R11, R55). -/
theorem s32_u32_signedField (raw : List Byte) (i : Nat) : s32 (u32 (signedField raw i)) = signedField raw i :=
  congrArg s32 (u32_s32 _)

/-- The weight and the tare of a reading fit the 32-bit result registers, an absent tare as 0 (R145, R156). -/
theorem s32_u32_of_reading {raw : List Byte} {r : Reading} (h : parseResponse raw = .reading r) :
    s32 (u32 r.weight) = r.weight ∧ s32 (u32 r.tare) = r.tare := by
  rw [parseResponse] at h
  split at h
  · cases h
  · cases h
    refine ⟨s32_u32_signedField raw 1, ?_⟩
    dsimp only
    split
    · exact s32_u32_signedField raw 9
    · decide

theorem readPort_weight (s : State) : readPort 5 s = s.res.weight := rfl

theorem readPort_division (s : State) : readPort 6 s = s.res.division.zeroExtend 32 := rfl

theorem readPort_tare (s : State) : readPort 7 s = s.res.tare := rfl

/-- Settles O47: BUILD leaves the frame, which DECODE does not touch, and DECODE leaves what parseResponse answers. -/
theorem getWeightExchange : Obligations.GetWeightExchange := by
  intro reply s
  obtain ⟨t, ht⟩ : ∃ t, t = applyAll ((getWeightWords reply).map .word) s := ⟨_, rfl⟩
  have htxf : t.txf = buildCommand cmdGetWeight := by
    rw [ht, applyAll_getWeightWords, applyAll_decodeWords_txf, writeFrame_txf]
  have hres : t.res = resultsOf (parseResponse reply) := by
    rw [ht, applyAll_getWeightWords, applyAll_decodeWords_res]
  obtain ⟨hlo, hhi⟩ := readPort_of_getWeight_frame htxf
  obtain ⟨hstable, hnet, hzero, hvalid, -⟩ := statusWord_flags t
  refine ⟨t, ht ▸ run_eq _ s, hlo, hhi, ?_⟩
  rw [readPort_status, statusWord_extractLsb_status, hstable, hnet, hzero, hvalid, readPort_weight, readPort_tare]
  cases hparse : parseResponse reply with
  | failed e =>
    cases e
    rw [readPort_division, hres, hparse]
    exact ⟨rfl, rfl, rfl, rfl, rfl, rfl, rfl, rfl⟩
  | reading r =>
    obtain ⟨hweight, htare⟩ := s32_u32_of_reading hparse
    rw [readPort_division_toNat, hres, hparse]
    exact ⟨rfl, hweight, rfl, htare, rfl, rfl, rfl, rfl⟩

end Sys2Proof.Machine

/-!
PROOFS. The CRC function (R121, R122, R126): a round and an update in numbers, the CRC of a sequence byte by byte, and
the wider register, whose low 16 bits go through the rounds of the 16-bit one.
-/

namespace Sys2Proof.Machine

theorem crcRound_toNat (c : Word) :
    (crcRound c).toNat =
      if 2 ^ 15 ≤ c.toNat then (2 * c.toNat % 2 ^ 16) ^^^ 0x1021 else 2 * c.toNat % 2 ^ 16 := by
  have hbit : c.getLsbD 15 = decide (2 ^ 15 ≤ c.toNat) :=
    (BitVec.msb_eq_getLsbD_last c).symm.trans (BitVec.msb_eq_decide c)
  have hshift : (c <<< 1).toNat = 2 * c.toNat % 2 ^ 16 := by
    rw [BitVec.toNat_shiftLeft, Nat.shiftLeft_eq, pow_one, mul_comm]
  simp only [crcRound, hbit, decide_eq_true_eq, ← hshift]
  split
  · exact BitVec.toNat_xor _ _
  · rfl

theorem crcRounds_eq_iterate (n : Nat) (c : Word) : crcRounds n c = crcRound^[n] c := by
  induction n generalizing c with
  | zero => rfl
  | succ n ih => rw [crcRounds, ih, Function.iterate_succ_apply]

/-- The byte in bits [15:8] weighs 2^8 (R122). -/
theorem inHighByte_eq_ofNat (b : Byte) : inHighByte b = BitVec.ofNat 16 (256 * b.toNat) := by
  have hb := b.isLt
  apply BitVec.eq_of_toNat_eq
  rw [inHighByte, BitVec.toNat_shiftLeft, BitVec.toNat_setWidth, BitVec.toNat_ofNat, Nat.shiftLeft_eq]
  omega

/-- Settles O12: bit 15 of the register and its shift as numbers, and `crcRounds` as an iteration of the round. -/
theorem crcUpdateIsEightRounds : Obligations.CrcUpdateIsEightRounds := by
  intro c b
  refine ⟨crcRound_toNat c, ?_⟩
  rw [crcUpdate, crcRounds_eq_iterate, inHighByte_eq_ofNat]

/-! The wider register (R126): taking the low 16 bits commutes with a round, so with an update and with the whole
sequence. -/

theorem ofNat_crcRoundWide (extra c : Nat) :
    BitVec.ofNat 16 (crcRoundWide extra c) = crcRound (BitVec.ofNat 16 c) := by
  have hbit : (BitVec.ofNat 16 c).getLsbD 15 = c.testBit 15 := BitVec.getLsbD_ofNat 16 c 15
  have hshift : BitVec.ofNat 16 (c * 2 % 2 ^ (16 + extra)) = BitVec.ofNat 16 c <<< 1 := by
    apply BitVec.eq_of_toNat_eq
    rw [BitVec.toNat_ofNat, BitVec.toNat_shiftLeft, BitVec.toNat_ofNat, Nat.shiftLeft_eq, pow_one,
      Nat.mod_mod_of_dvd _ (pow_dvd_pow 2 (Nat.le_add_right 16 extra)), Nat.mod_mul_mod]
  rw [crcRound, hbit, ← hshift, crcRoundWide]
  split
  · rw [BitVec.ofNat_xor, BitVec.ofNat_toNat, BitVec.setWidth_eq]
  · rfl

theorem ofNat_crcRoundsWide (extra n c : Nat) :
    BitVec.ofNat 16 (crcRoundsWide extra n c) = crcRounds n (BitVec.ofNat 16 c) := by
  induction n generalizing c with
  | zero => rfl
  | succ n ih => rw [crcRoundsWide, ih, ofNat_crcRoundWide, crcRounds]

theorem ofNat_crcUpdateWide (extra c : Nat) (b : Byte) :
    BitVec.ofNat 16 (crcUpdateWide extra c b) = crcUpdate (BitVec.ofNat 16 c) b := by
  rw [crcUpdateWide, ofNat_crcRoundsWide, BitVec.ofNat_xor, mul_comm, ← inHighByte_eq_ofNat, crcUpdate]

/-- Settles O14: the low 16 bits of the wider register are the 16-bit register after every byte. -/
theorem widerCrcRegisterAgrees : Obligations.WiderCrcRegisterAgrees := by
  intro extra data
  have hfold : data.foldl crcUpdate (BitVec.ofNat 16 crcInit.toNat) =
      BitVec.ofNat 16 (data.foldl (crcUpdateWide extra) crcInit.toNat) :=
    List.foldl_hom (BitVec.ofNat 16) fun c b => (ofNat_crcUpdateWide extra c b).symm
  calc crc16Wide extra data
      = (BitVec.ofNat 16 (data.foldl (crcUpdateWide extra) crcInit.toNat)).toNat := (BitVec.toNat_ofNat _ _).symm
    _ = (data.foldl crcUpdate (BitVec.ofNat 16 crcInit.toNat)).toNat := by rw [hfold]
    _ = (crc16 data).toNat := by rw [BitVec.ofNat_toNat, BitVec.setWidth_eq, crc16, crcFold]

theorem crcFold_append (c : Word) (xs ys : List Byte) : crcFold c (xs ++ ys) = crcFold (crcFold c xs) ys :=
  List.foldl_append

/-- Settles O13: the fold over a sequence and one more byte. -/
theorem crcOfASequence : Obligations.CrcOfASequence :=
  ⟨rfl, fun data b => crcFold_append 0xFFFF data [b]⟩

/-- Settles O15, by evaluation of the update and of its rounds. -/
theorem crcReferenceValue : Obligations.CrcReferenceValue := by
  unfold Obligations.CrcReferenceValue
  decide

end Sys2Proof.Machine

/-!
PROOFS. The operations of CRC (R124, R125) and their runs (R128): every input but CRC_INIT and reset folds the bytes it
hands to CRC_BYTE into the register.
-/

namespace Sys2Proof.Machine

/-- An operation without operand has one legal word; any other word with its OPC is Illegal (R76). -/
theorem exists_illegal_of_opcOf_eq {w : Word} {opc : BitVec 4} (hopc : opc ∈ [0x0, 0x1, 0x4, 0x6]) (h : opcOf w = opc)
    (hw : w ≠ wordOf opc 0) : ∃ why, decode w = .illegal why := by
  rw [← isLegal_decode_eq_false_iff, ← wellFormed_eq_isLegal_decode, wellFormed_eq_false_iff]
  by_cases hrsv : rsvOf w = 0
  · have hdata : dataOf w ≠ 0 := fun hd => hw (by rw [← wordOf_fields hrsv, h, hd])
    exact .inr (.inr ⟨h ▸ hopc, hdata⟩)
  · exact .inr (.inl hrsv)

/-- Settles O10: 0x1000 is the encoder's word of CRC_INIT, and the only legal word with its OPC. -/
theorem crcInitSetsTheInitialValue : Obligations.CrcInitSetsTheInitialValue :=
  ⟨decode_encode .crcInit, fun s => exec_eq .crcInit s,
    fun _ hopc hw => exists_illegal_of_opcOf_eq (by decide) hopc hw⟩

/-- Settles O11: the effect is a write of CRC, the corner values are evaluated, and BUILD leaves CRC as it was. -/
theorem crcByteUpdatesTheRegister : Obligations.CrcByteUpdatesTheRegister := by
  refine ⟨fun b => ?decodes, fun b s => exec_eq (.crcByte b) s, by decide, by decide, by decide, rfl,
    fun b code s t h => ?afterBuild⟩
  case decodes => rw [← encode_crcByte, decode_encode]
  case afterBuild =>
    refine ⟨_, exec_eq (.crcByte b) t, ?_⟩
    rw [eq_effect_of_exec h, effect_crcByte, writeCrc_crc, effect_build, writeFrame_crc]

theorem crcBytes_cons (e : Input) (es : List Input) : crcBytes (e :: es) = crcBytes [e] ++ crcBytes es :=
  List.filterMap_append (l := [e])

theorem crcBytes_of_performed_none {e : Input} (h : performed e = none) : crcBytes [e] = [] := by
  simp [crcBytes, h]

theorem performed_encode (i : Instr) : performed (.word (encode i)) = some i := by
  rw [performed, decode_encode]

theorem crcBytes_map_crcByte (data : List Byte) :
    crcBytes ((data.map fun b => encode (.crcByte b)).map .word) = data := by
  induction data with
  | nil => rfl
  | cons b data ih =>
    rw [List.map_cons, List.map_cons, crcBytes_cons, ih]
    simp [crcBytes, performed_encode]

/-- An operation that is not CRC_INIT folds in its byte if it is CRC_BYTE, and else leaves CRC (R39). -/
theorem effect_crc {e : Input} {i : Instr} (he : performed e = some i) (hi : i ≠ .crcInit) (s : State) :
    (effect i s).crc = crcFold s.crc (crcBytes [e]) := by
  cases i with
  | crcInit => exact absurd rfl hi
  | crcByte b => simp [crcBytes, he]
  | nop | build _ | rxClear | rxByte _ | parse => simp [crcBytes, he]

theorem applyInput_crc {e : Input} (hreset : isReset e = false) (hinit : performed e ≠ some .crcInit) (s : State) :
    (applyInput e s).crc = crcFold s.crc (crcBytes [e]) := by
  obtain ⟨i, hi, he⟩ | ⟨-, hnone, he⟩ | ⟨hr, -, -⟩ := applyInput_cases e
  · rw [he]
    exact effect_crc hi (fun h => hinit (h ▸ hi)) s
  · rw [he, crcBytes_of_performed_none hnone, raiseIllegalOperation_crc, crcFold_nil]
  · rw [hr] at hreset; cases hreset

/-- A run of such inputs folds in the bytes its CRC_BYTEs carry. -/
theorem applyAll_crc {es : List Input} (hes : ∀ e ∈ es, isReset e = false ∧ performed e ≠ some .crcInit)
    (s : State) : (applyAll es s).crc = crcFold s.crc (crcBytes es) := by
  induction es generalizing s with
  | nil => rfl
  | cons e es ih =>
    obtain ⟨⟨hreset, hinit⟩, hrest⟩ := List.forall_mem_cons.mp hes
    rw [applyAll_cons, ih hrest, applyInput_crc hreset hinit, crcBytes_cons e es, crcFold_append]

theorem applyAll_crcInit_crc {es : List Input}
    (hes : ∀ e ∈ es, isReset e = false ∧ performed e ≠ some .crcInit) (s : State) :
    (applyAll (.word (encode .crcInit) :: es) s).crc = crc16 (crcBytes es) := by
  rw [applyAll_cons, applyInput_encode, applyAll_crc hes, effect_crcInit, writeCrc_crc, crc16]

/-- The words of the `CRC` pseudo-operation (R81) are such a run. -/
theorem applyAll_crcWords_crc (data : List Byte) (s : State) :
    (applyAll ((crcWords data).map .word) s).crc = crc16 data := by
  have hes : ∀ e ∈ (data.map fun b => encode (.crcByte b)).map Input.word,
      isReset e = false ∧ performed e ≠ some .crcInit := by
    simp [isReset, performed_encode]
  rw [crcWords, List.map_cons, applyAll_crcInit_crc hes, crcBytes_map_crcByte]

/-- Settles O40: a run folds its bytes into CRC, which CRC_INIT and reset leave at the initial value. -/
theorem crcRunComputesCrc16 : Obligations.CrcRunComputesCrc16 :=
  ⟨fun data s => ⟨_, run_eq _ s, applyAll_crcWords_crc data s⟩, fun _ hes =>
    ⟨fun s => ⟨_, run_eq _ s, applyAll_crcInit_crc hes s⟩, _, run_eq _ _, applyAll_crc hes State.reset⟩⟩

end Sys2Proof.Machine

/-!
PROOFS. The parser function (R140 to R148, R156): which bytes the reading is made of, and a signed value laid out in
wire order read back.
-/

namespace Sys2Proof.Machine

/-- The Reading of a response of N_MIN bytes or more (R142 to R145). -/
def readingOf (raw : List Byte) : Reading :=
  { weight := signedField raw 1, division := byteAt raw 5, stable := flagOf (byteAt raw 6),
    net := flagOf (byteAt raw 7), zero := flagOf (byteAt raw 8),
    tare := if nExt ≤ raw.length then signedField raw 9 else 0,
    tarePresent := decide (nExt ≤ raw.length) }

theorem parseResponse_of_lt {raw : List Byte} (h : raw.length < nMin) :
    parseResponse raw = .failed .shortResponse := if_pos h

theorem parseResponse_of_ge {raw : List Byte} (h : nMin ≤ raw.length) :
    parseResponse raw = .reading (readingOf raw) := if_neg (Nat.not_lt.mpr h)

theorem readingOf_tare_of_lt {raw : List Byte} (h : raw.length < nExt) :
    (readingOf raw).tare = 0 ∧ (readingOf raw).tarePresent = false :=
  ⟨if_neg (Nat.not_le.mpr h), decide_eq_false (Nat.not_le.mpr h)⟩

theorem readingOf_tare_of_ge {raw : List Byte} (h : nExt ≤ raw.length) :
    (readingOf raw).tare = signedField raw 9 ∧ (readingOf raw).tarePresent = true :=
  ⟨if_pos h, decide_eq_true h⟩

theorem flagOf_eq_true_iff {b : Byte} : flagOf b = true ↔ b = 0x01 := beq_iff_eq

/-- Settles O37: the two length tests of the function, and the fields of the reading. -/
theorem responseLengthClasses : Obligations.ResponseLengthClasses := fun _ =>
  ⟨parseResponse_of_lt, fun h => ⟨_, parseResponse_of_ge h, rfl, rfl, flagOf_eq_true_iff, flagOf_eq_true_iff,
    flagOf_eq_true_iff, readingOf_tare_of_lt, readingOf_tare_of_ge⟩⟩

theorem signedField_congr {raw other : List Byte} {i : Nat}
    (h : ∀ k < 4, byteAt raw (i + k) = byteAt other (i + k)) : signedField raw i = signedField other i := by
  have h0 : byteAt raw i = byteAt other i := h 0 (by omega)
  rw [signedField, signedField, h0, h 1 (by omega), h 2 (by omega), h 3 (by omega)]

/-- The reading is made of the bytes 1 to 12 and of one length test (R146, R147). -/
theorem readingOf_congr {raw other : List Byte} (hbyte : ∀ k, 1 ≤ k → k ≤ 12 → byteAt raw k = byteAt other k)
    (hext : nExt ≤ raw.length ↔ nExt ≤ other.length) : readingOf raw = readingOf other := by
  have hweight : signedField raw 1 = signedField other 1 :=
    signedField_congr fun k hk => hbyte (1 + k) (by omega) (by omega)
  have htare : signedField raw 9 = signedField other 9 :=
    signedField_congr fun k hk => hbyte (9 + k) (by omega) (by omega)
  simp only [readingOf, hweight, htare, hext, hbyte 5 (by omega) (by omega), hbyte 6 (by omega) (by omega),
    hbyte 7 (by omega) (by omega), hbyte 8 (by omega) (by omega)]

/-- Settles O38: both sequences are short, or both give the reading of the same bytes. -/
theorem uninterpretedBytesChangeNothing : Obligations.UninterpretedBytesChangeNothing := by
  intro raw other hbytes hmin hext
  have hbyte (k : Nat) (h1 : 1 ≤ k) (h12 : k ≤ 12) : byteAt raw k = byteAt other k := by
    rw [byteAt, byteAt, List.getD_eq_getElem?_getD, List.getD_eq_getElem?_getD, hbytes k h1 h12]
  by_cases hlen : 13 ≤ raw.length
  · rw [parseResponse_of_ge hlen, parseResponse_of_ge (hmin.mp hlen), readingOf_congr hbyte hext]
  · rw [parseResponse_of_lt (Nat.not_le.mp hlen), parseResponse_of_lt (Nat.not_le.mp (mt hmin.mpr hlen))]

theorem byteOf_toNat (v : DWord) (k : Nat) : (byteOf v k).toNat = v.toNat / 2 ^ (8 * k) % 2 ^ 8 := by
  rw [byteOf, BitVec.extractLsb'_toNat, Nat.shiftRight_eq_div_pow]

/-- The bytes of a 32-bit pattern in wire order make the pattern again (R53, R55). -/
theorem le32_byteOf (v : DWord) : le32 (byteOf v 0) (byteOf v 1) (byteOf v 2) (byteOf v 3) = v := by
  have hv := v.isLt
  apply BitVec.eq_of_toNat_eq
  simp only [le32_toNat, byteOf_toNat]
  omega

/-- `s32` undoes `u32` on the 32-bit signed integers (R11). -/
theorem s32_u32 {w : Int} (hlo : -2 ^ 31 ≤ w) (hhi : w < 2 ^ 31) : s32 (u32 w) = w := by
  rw [s32_eq_toInt, u32]
  exact BitVec.toInt_ofInt_eq_self (by decide) hlo hhi

/-- A pattern laid low byte first at an offset is the field read there (R53, R55). -/
theorem signedField_of_bytes {raw : List Byte} {i : Nat} {v : DWord}
    (h : ∀ k < 4, raw[i + k]? = some (byteOf v k)) : signedField raw i = s32 v := by
  have hbyte {k : Nat} (hk : k < 4) : byteAt raw (i + k) = byteOf v k := by
    rw [byteAt, List.getD_eq_getElem?_getD, h k hk, Option.getD_some]
  have h0 : byteAt raw i = byteOf v 0 := hbyte (k := 0) (by omega)
  rw [signedField, h0, hbyte (k := 1) (by omega), hbyte (k := 2) (by omega), hbyte (k := 3) (by omega), le32_byteOf]

/-- Settles O39: the field at the offset of the value's bytes is the value, as weight and as tare. -/
theorem signedValuesSurvive : Obligations.SignedValuesSurvive := by
  intro w raw hlo hhi
  have hfield {i : Nat} (h : ∀ k < 4, raw[i + k]? = some (byteOf (u32 w) k)) : signedField raw i = w :=
    (signedField_of_bytes h).trans (s32_u32 hlo hhi)
  refine ⟨fun hlen hbytes => ⟨_, parseResponse_of_ge hlen, hfield hbytes⟩, fun hlen hbytes => ?tare⟩
  case tare =>
    obtain ⟨htare, hpresent⟩ := readingOf_tare_of_ge hlen
    exact ⟨_, parseResponse_of_ge (le_trans (by decide) hlen), htare.trans (hfield hbytes), hpresent⟩

end Sys2Proof.Machine

/-!
PROOFS. The parser's operations: RX_CLEAR (R151), RX_BYTE in its three ranges of RXLEN (R152) and PARSE (R153).
-/

namespace Sys2Proof.Machine

/-- Settles O18: 0x4000 is the encoder's word of RX_CLEAR, whose effect is `clearCount`. -/
theorem rxClearZeroesTheCount : Obligations.RxClearZeroesTheCount := by
  refine ⟨decode_encode .rxClear, exec_eq .rxClear, fun s t h => ?reads,
    fun _ hopc hw => exists_illegal_of_opcOf_eq (by decide) hopc hw⟩
  case reads =>
    rw [eq_effect_of_exec h]
    rfl

section
variable {rxMax : Count} {s : State}

theorem countByte_of_lt {n : Count} (h : n.toNat < rxMax.toNat) : countByte rxMax n = n + 1 := if_pos h

theorem countByte_of_ge {n : Count} (h : rxMax.toNat ≤ n.toNat) : countByte rxMax n = n :=
  if_neg (Nat.not_lt.mpr h)

theorem receiveByte_of_stored (hm : 13 ≤ rxMax.toNat) (h : s.rxlen.toNat < 13) (b : Byte) :
    receiveByte rxMax b s = { s with rxb := s.rxb.set s.rxlen.toNat b h, rxlen := s.rxlen + 1 } := by
  rw [receiveByte, storeByte_of_lt h, countByte_of_lt (lt_of_lt_of_le h hm)]

theorem receiveByte_of_counted (h : 13 ≤ s.rxlen.toNat) (hlt : s.rxlen.toNat < rxMax.toNat) (b : Byte) :
    receiveByte rxMax b s = { s with rxlen := s.rxlen + 1 } := by
  rw [receiveByte, storeByte_of_ge h, countByte_of_lt hlt]

theorem receiveByte_of_full (hm : 13 ≤ rxMax.toNat) (h : rxMax.toNat ≤ s.rxlen.toNat) (b : Byte) :
    receiveByte rxMax b s = s := by
  rw [receiveByte, storeByte_of_ge (le_trans hm h), countByte_of_ge h]

end

/-- Settles O19: the receive operation at RX_MAX = 1024 in its three ranges. -/
theorem rxByteStoresAndCounts : Obligations.RxByteStoresAndCounts := by
  refine ⟨fun b => ?decodes, fun b s h => ?stored, fun b s h hlt => ?counted, fun b s h => ?full⟩
  case decodes => rw [← encode_rxByte, decode_encode]
  case stored => rw [exec_eq, effect_rxByte, receiveByte_of_stored (by decide) h]
  case counted => rw [exec_eq, effect_rxByte, receiveByte_of_counted h hlt]
  case full => rw [exec_eq, effect_rxByte, receiveByte_of_full (by decide) h]

theorem parseResults_of_lt {n : Count} (h : n.toNat < nMin) (v : Vector Byte 13) :
    parseResults n v = shortResults := if_pos h

theorem parseResults_of_ge {n : Count} (h : nMin ≤ n.toNat) (v : Vector Byte 13) :
    parseResults n v = okResults n v := if_neg (Nat.not_lt.mpr h)

/-- Settles O21: the two cases of what PARSE writes, and PARSE is idempotent. -/
theorem parseDecodesOrReportsShort : Obligations.ParseDecodesOrReportsShort := by
  refine ⟨decode_encode .parse, fun s h => ?short, fun s h => ?ok, fun s t h => ?again,
    fun _ hopc hw => exists_illegal_of_opcOf_eq (by decide) hopc hw⟩
  case short =>
    rw [exec_eq, effect_parse, parseResults_of_lt h]
    rfl
  case ok =>
    rw [exec_eq, effect_parse, parseResults_of_ge h]
    rfl
  case again =>
    obtain rfl := eq_effect_of_exec h
    rw [exec_eq, effect_effect (i := .parse) nofun nofun]

end Sys2Proof.Machine

/-!
PROOFS. Runs of the parser's operations: DECODE leaves what parseResponse answers (R154), and the results hold until
the next PARSE or reset (R155).
-/

namespace Sys2Proof.Machine

/-- Receiving a sequence writes RXB and RXLEN only (R39). -/
theorem receiveAll_frame (rxMax : Count) (raw : List Byte) (s : State) :
    receiveAll rxMax raw s =
      { s with rxb := (receiveAll rxMax raw s).rxb, rxlen := (receiveAll rxMax raw s).rxlen } := by
  induction raw generalizing s with
  | nil => rfl
  | cons b raw ih => exact ih (receiveByte rxMax b s)

theorem applyAll_decodeWords_crc (raw : List Byte) (s : State) :
    (applyAll ((decodeWords raw).map .word) s).crc = s.crc := by
  rw [applyAll_decodeWords, effect_parse, writeResults_crc, receiveAll_frame, clearCount_crc]

theorem applyAll_decodeWords_ill (raw : List Byte) (s : State) :
    (applyAll ((decodeWords raw).map .word) s).ill = s.ill := by
  rw [applyAll_decodeWords, effect_ill, receiveAll_frame, clearCount_ill]

/-- RX_CLEAR, then any inputs but RX_CLEAR and reset, then PARSE: the bytes received are those of the RX_BYTEs. -/
theorem applyAll_rxClear_parse_res {es : List Input}
    (hes : ∀ e ∈ es, isReset e = false ∧ performed e ≠ some .rxClear) (s : State) :
    (applyAll (.word (encode .rxClear) :: es ++ [.word (encode .parse)]) s).res =
      resultsOf (parseResponse (rxBytes es)) := by
  have hrec : Received Config.rxMax (rxBytes es) (applyAll es (clearCount s)) :=
    (received_nil Config.rxMax (clearCount_rxlen s)).applyAll hes
  rw [List.cons_append, applyAll_cons, applyInput_encode, effect_rxClear, applyAll_append, applyAll_cons,
    applyInput_encode]
  exact hrec.effect_parse_res (by decide)

/-- Settles O42: the result registers of each answer of parseResponse, and the receive run between RX_CLEAR and
PARSE. -/
theorem decodeRunAgreesWithParseResponse : Obligations.DecodeRunAgreesWithParseResponse := by
  refine ⟨fun raw s => ⟨_, run_eq _ s, ?results, applyAll_decodeWords_crc raw s, applyAll_decodeWords_txf raw s,
    applyAll_decodeWords_ill raw s⟩, fun es s hes => ⟨_, run_eq _ s, applyAll_rxClear_parse_res hes s⟩⟩
  case results =>
    rw [applyAll_decodeWords_res]
    cases parseResponse raw with
    | failed e => cases e; rfl
    | reading r => rfl

theorem effect_res {i : Instr} (h : i ≠ .parse) (s : State) : (effect i s).res = s.res :=
  Decidable.of_not_not (mt eq_parse_of_res_ne h)

theorem applyInput_res {e : Input} (hreset : isReset e = false) (hparse : performed e ≠ some .parse) (s : State) :
    (applyInput e s).res = s.res := by
  obtain ⟨i, hi, he⟩ | ⟨-, -, he⟩ | ⟨hr, -, -⟩ := applyInput_cases e
  · rw [he]
    exact effect_res (fun h => hparse (h ▸ hi)) s
  · rw [he, raiseIllegalOperation_res]
  · rw [hr] at hreset; cases hreset

theorem applyAll_res {es : List Input} (hes : ∀ e ∈ es, isReset e = false ∧ performed e ≠ some .parse)
    (s : State) : (applyAll es s).res = s.res := by
  induction es generalizing s with
  | nil => rfl
  | cons e es ih =>
    obtain ⟨⟨hreset, hparse⟩, hrest⟩ := List.forall_mem_cons.mp hes
    rw [applyAll_cons, ih hrest, applyInput_res hreset hparse]

/-- Settles O43: no input but PARSE and reset writes the result registers. -/
theorem resultsHoldUntilTheNextParse : Obligations.ResultsHoldUntilTheNextParse :=
  fun es s hes => ⟨applyAll es s, run_eq es s, applyAll_res hes s⟩

end Sys2Proof.Machine

/-!
PROOFS. NOP and the all-zero word (R180).
-/

namespace Sys2Proof.Machine

/-- The encoder's word of NOP, presented on the port, leaves the state as it was. -/
theorem acceptInput_encode_nop (s : State) : acceptInput (.word (encode .nop)) s = .next s := by
  rw [acceptInput_eq, applyInput_encode, effect_nop]

/-- Settles O9: 0x0000 is the encoder's word of NOP, whose effect is none, and the only legal word with its OPC. -/
theorem nopChangesNothing : Obligations.NopChangesNothing :=
  ⟨decode_encode .nop, exec_eq .nop, acceptInput_encode_nop,
    fun _ hopc hw => exists_illegal_of_opcOf_eq (by decide) hopc hw⟩

end Sys2Proof.Machine

/-!
PROOFS. The two errors the block reports (R200, R204): only a reset clears ILL or returns RES_STATUS to IDLE, so a run
without a reset that ends with ILL = 0 met no illegal word (R205).
-/

namespace Sys2Proof.Machine

/-- A reset performs no operation, even when a legal word is presented with it (R231). -/
theorem isReset_eq_false_of_performed {e : Input} {i : Instr} (h : performed e = some i) : isReset e = false := by
  cases e with
  | word w => rfl
  | reset => cases h
  | resetWithWord w => cases h

theorem applyInput_ill_iff (e : Input) (s : State) :
    (applyInput e s).ill = true ↔ isReset e = false ∧ (s.ill = true ∨ performed e = none) := by
  obtain ⟨i, hi, he⟩ | ⟨hr, hnone, he⟩ | ⟨hr, -, he⟩ := applyInput_cases e <;> rw [he]
  · simp [hi, isReset_eq_false_of_performed hi]
  · simp [hr, hnone]
  · simp [hr]

/-- PARSE leaves SHORT or OK, never IDLE. -/
theorem parseResults_status_ne_idle (n : Count) (v : Vector Byte 13) : (parseResults n v).status ≠ 0b00 := by
  rw [parseResults]
  split
  · exact (by decide : statusShort ≠ 0b00)
  · exact (by decide : statusOk ≠ 0b00)

/-- PARSE is the one input beside a reset that writes RES_STATUS, and it does not write IDLE. -/
theorem idle_of_applyInput_idle {e : Input} {s : State} (hreset : isReset e = false)
    (h : (applyInput e s).res.status = 0b00) : s.res.status = 0b00 := by
  by_cases hparse : performed e = some .parse
  · rw [applyInput_of_performed hparse, effect_parse, writeResults_res] at h
    exact absurd h (parseResults_status_ne_idle s.rxlen s.rxb)
  · rwa [applyInput_res hreset hparse] at h

/-- Settles O28: ILL by the three kinds of input, RES_STATUS by what PARSE writes. -/
theorem onlyResetClearsIllAndStatus : Obligations.OnlyResetClearsIllAndStatus := by
  intro e s t h
  obtain rfl := eq_applyInput_of_acceptInput h
  exact ⟨applyInput_ill_iff e s, idle_of_applyInput_idle⟩

theorem goodFinal_iff {s : State} : s.goodFinal ↔ s.ill = false := by
  simp [State.goodFinal, State.faultOf]

theorem applyInput_goodFinal_iff {e : Input} (hreset : isReset e = false) (s : State) :
    (applyInput e s).goodFinal ↔ s.goodFinal ∧ ∃ i, performed e = some i := by
  simp only [goodFinal_iff, ← Bool.not_eq_true, applyInput_ill_iff, hreset, true_and, not_or,
    ← Option.ne_none_iff_exists', ne_eq]

/-- Without a reset a bad state stays bad, so a good end says that every input on the way was a legal word. -/
theorem applyAll_goodFinal_iff {es : List Input} (hes : ∀ e ∈ es, isReset e = false) (s : State) :
    (applyAll es s).goodFinal ↔ s.goodFinal ∧ ∀ e ∈ es, ∃ i, performed e = some i := by
  induction es generalizing s with
  | nil => simp
  | cons e es ih =>
    obtain ⟨hreset, hrest⟩ := List.forall_mem_cons.mp hes
    rw [applyAll_cons, ih hrest, applyInput_goodFinal_iff hreset, List.forall_mem_cons, and_assoc]

/-- Settles O29: the run is the fold of its inputs, and each input keeps a bad state bad. -/
theorem goodEndMeansNoIllegalWord : Obligations.GoodEndMeansNoIllegalWord := by
  intro es s t h hes hgood
  rw [run_eq] at h
  cases h
  exact (applyAll_goodFinal_iff hes s).mp hgood

end Sys2Proof.Machine

/-!
PROOFS. The three functions share no state (R242): an operation outside a function leaves its elements, and commutes
with any write of CRC or TXF; so operations of different functions commute.
-/

namespace Sys2Proof.Machine

section
variable {i j : Instr}

theorem effect_crc_of_functionOf_ne (h : functionOf i ≠ .crc) (s : State) : (effect i s).crc = s.crc := by
  by_contra hne
  obtain rfl | ⟨b, rfl⟩ := eq_crc_instr_of_crc_ne hne
  · exact h rfl
  · exact h rfl

theorem effect_txf_of_functionOf_ne (h : functionOf i ≠ .frame) (s : State) : (effect i s).txf = s.txf := by
  by_contra hne
  obtain ⟨code, rfl⟩ := eq_build_of_txf_ne hne
  exact h rfl

theorem effect_parser_elements_of_functionOf_ne (h : functionOf i ≠ .parser) (s : State) :
    (effect i s).rxb = s.rxb ∧ (effect i s).rxlen = s.rxlen ∧ (effect i s).res = s.res := by
  have hclear : i ≠ .rxClear := by rintro rfl; exact h rfl
  have hbyte : ∀ b, i ≠ .rxByte b := by rintro b rfl; exact h rfl
  have hparse : i ≠ .parse := by rintro rfl; exact h rfl
  obtain ⟨hlen, hrxb⟩ := effect_leaves_receiver hclear hbyte s
  exact ⟨hrxb, hlen, effect_res hparse s⟩

/-- Only the CRC's operations read or write CRC. -/
theorem effect_writeCrc (h : functionOf i ≠ .crc) (c : Word) (s : State) :
    effect i (writeCrc c s) = writeCrc c (effect i s) := by
  cases i with
  | crcInit | crcByte _ => exact absurd rfl h
  | parse => simp only [effect_parse]; rfl
  | nop | build _ | rxClear | rxByte _ => rfl

/-- Only the frame's operation reads or writes TXF. -/
theorem effect_writeFrame (h : functionOf i ≠ .frame) (f : Vector Byte 8) (s : State) :
    effect i (writeFrame f s) = writeFrame f (effect i s) := by
  cases i with
  | build _ => exact absurd rfl h
  | parse => simp only [effect_parse]; rfl
  | nop | crcInit | crcByte _ | rxClear | rxByte _ => rfl

/-- Outside the parser an operation is one write of CRC or TXF, or none, with which the other commutes. -/
theorem effect_comm_of_not_parser (hi : functionOf i ≠ .parser) (hij : functionOf i ≠ functionOf j) (s : State) :
    effect j (effect i s) = effect i (effect j s) := by
  cases i with
  | nop => rfl
  | crcInit => exact effect_writeCrc hij.symm crcInit s
  | crcByte b =>
    rw [effect_crcByte, effect_crcByte, effect_writeCrc hij.symm, effect_crc_of_functionOf_ne hij.symm]
  | build code => exact effect_writeFrame hij.symm (buildCommand code) s
  | rxClear | rxByte _ | parse => exact absurd rfl hi

theorem effect_comm (hij : functionOf i ≠ functionOf j) (s : State) :
    effect j (effect i s) = effect i (effect j s) := by
  by_cases hi : functionOf i = .parser
  · have hj : functionOf j ≠ .parser := fun hj => hij (hi.trans hj.symm)
    exact (effect_comm_of_not_parser hj hij.symm s).symm
  · exact effect_comm_of_not_parser hi hij s

end

/-- Settles O23: the elements each function keeps to itself, and `effect_comm`. -/
theorem functionsInterleaveFreely : Obligations.FunctionsInterleaveFreely := by
  refine ⟨?frame, ?commute⟩
  case frame =>
    intro i s t h
    obtain rfl := eq_effect_of_exec h
    exact ⟨(effect_crc_of_functionOf_ne · s), (effect_txf_of_functionOf_ne · s),
      (effect_parser_elements_of_functionOf_ne · s)⟩
  case commute =>
    intro i j s a b hij ha hb
    rw [eq_effect_of_exec ha, eq_effect_of_exec hb, exec_eq, exec_eq, effect_comm hij]

end Sys2Proof.Machine

/-!
PROOFS. A reset event and the word presented with it (R231), and a read in the step of an input (R241).
-/

namespace Sys2Proof.Machine

theorem acceptInput_of_isReset {e : Input} (h : isReset e = true) (s : State) :
    acceptInput e s = .next (resetBlock s) := by
  rw [acceptInput_eq, applyInput_of_isReset h]

/-- Settles O26: a word presented with the reset is not looked at, and the reset draws only RXB from outside R36. -/
theorem resetEventWins : Obligations.ResetEventWins :=
  fun _ s he => ⟨resetBlock s, acceptInput_of_isReset he s, rfl⟩

/-- Settles O35: the data and the outcome are both taken from the state before the input. -/
theorem readSeesTheStateBefore : Obligations.ReadSeesTheStateBefore :=
  fun _ _ _ => ⟨rfl, rfl⟩

end Sys2Proof.Machine
